-- ==== Sys2Proof/Word.lean ====
section
/-! DEFINITION. The two word types of the block: a byte and a 32-bit count (00_scope.md R8). -/

namespace Sys2Proof

/-- A byte: 8 bits, unsigned (R8). -/
abbrev Byte := BitVec 8

/-- A 32-bit unsigned count, or a TMS pattern (R8, R22, R23, R58). -/
abbrev U32 := BitVec 32

end Sys2Proof
end

