-- ==== Sys2Proof/Config.lean ====
section
/-! DEFINITION. The parameters the block is defined over (00_scope.md R6), as plain data, and the free values: constants
with no body, of which nothing can be proved. The default values stand in Machine/Params.lean. -/

namespace Sys2Proof

/-- `OPC`: the opcode byte of each of the seven opcodes (30_encoding.md R73, D3). -/
structure OpcTable where
  complete : Byte
  declareTdoMask : Byte
  shiftInstruction : Byte
  shiftData : Byte
  declareRunTest : Byte
  declareShiftSize : Byte
  shiftDataCompare : Byte
  deriving DecidableEq, Repr

/-- One fixed TAP transition: a TMS pattern, bit 0 driven first, and how many bits are driven (40_kernels.md R110). -/
structure Transition where
  pattern : U32
  count : Nat
  deriving DecidableEq, Repr

/-- `SEQ`: the four fixed TAP transitions (40_kernels.md R110, D4). -/
structure TapSeq where
  resetIdle : Transition
  enterSir : Transition
  enterSdr : Transition
  exitIdle : Transition
  deriving DecidableEq, Repr

/-- `ZERO_SHIFT`: what a shift of zero bits does (41_opcodes.md R164, D9). -/
inductive ZeroShift where
  | refuse
  | literal
  deriving DecidableEq, Repr

/-- The configuration the host supplies before a playback (70_reset_and_hazards.md R234). -/
structure Config where
  /-- `BUF_CAP`, the capacity of each shift buffer in bytes (D5). -/
  bufCap : Nat
  opc : OpcTable
  seq : TapSeq
  zeroShift : ZeroShift
  deriving DecidableEq, Repr

/-- What can be wrong with a configuration: the four cases of `BadConfig` (60_exceptions.md R206, U19). -/
inductive ConfigFault where
  /-- two opcodes share a byte value (R73) -/
  | opcNotDistinct
  /-- a `SEQ` count above 32 (R100) -/
  | seqCountAboveMax
  /-- a `SEQ` that fails R112 -/
  | seqPath
  /-- `BUF_CAP` < 1 -/
  | bufCapZero
  deriving DecidableEq, Repr

/-- FREE VALUE (log 7): the target's answer to the n-th sample of a playback, where `State.tdoNext` lists none. The block
does not determine it (70_reset_and_hazards.md R240, U7). -/
opaque Config.freeTdo : Nat → Bool

/-- FREE VALUE (log 18): how the host renders bytes as diagnostic text, `hexRender` (D16, U5). -/
opaque Config.hexRender : List Byte → String

end Sys2Proof
end

