-- ==== Sys2Proof/Machine/Tap.lean ====
section
/-! DEFINITION. The target's TAP state graph, an observer model that no rule of the block reads (10_state.md R35, R36). It is
used to check a `SEQ` against 40_kernels.md R112 and to say where the target's TAP is. -/

namespace Sys2Proof.Machine

/-- The sixteen states of the IEEE 1149.1 TAP (R36; the spec's general knowledge, D19). -/
inductive TapState where
  | testLogicReset | runTestIdle
  | selectDrScan | captureDr | shiftDr | exit1Dr | pauseDr | exit2Dr | updateDr
  | selectIrScan | captureIr | shiftIr | exit1Ir | pauseIr | exit2Ir | updateIr
  deriving DecidableEq, Repr

/-- All sixteen: the target's TAP state when it is unknown (R35). -/
def TapState.all : List TapState :=
  [.testLogicReset, .runTestIdle, .selectDrScan, .captureDr, .shiftDr, .exit1Dr, .pauseDr, .exit2Dr, .updateDr,
   .selectIrScan, .captureIr, .shiftIr, .exit1Ir, .pauseIr, .exit2Ir, .updateIr]

/-- The transition table of R36, applied at a TCK rising edge with the TMS level at that edge. -/
def TapState.next : TapState → Bool → TapState
  | .testLogicReset, false => .runTestIdle
  | .testLogicReset, true => .testLogicReset
  | .runTestIdle, false => .runTestIdle
  | .runTestIdle, true => .selectDrScan
  | .selectDrScan, false => .captureDr
  | .selectDrScan, true => .selectIrScan
  | .captureDr, false => .shiftDr
  | .captureDr, true => .exit1Dr
  | .shiftDr, false => .shiftDr
  | .shiftDr, true => .exit1Dr
  | .exit1Dr, false => .pauseDr
  | .exit1Dr, true => .updateDr
  | .pauseDr, false => .pauseDr
  | .pauseDr, true => .exit2Dr
  | .exit2Dr, false => .shiftDr
  | .exit2Dr, true => .updateDr
  | .updateDr, false => .runTestIdle
  | .updateDr, true => .selectDrScan
  | .selectIrScan, false => .captureIr
  | .selectIrScan, true => .testLogicReset
  | .captureIr, false => .shiftIr
  | .captureIr, true => .exit1Ir
  | .shiftIr, false => .shiftIr
  | .shiftIr, true => .exit1Ir
  | .exit1Ir, false => .pauseIr
  | .exit1Ir, true => .updateIr
  | .pauseIr, false => .pauseIr
  | .pauseIr, true => .exit2Ir
  | .exit2Ir, false => .shiftIr
  | .exit2Ir, true => .updateIr
  | .updateIr, false => .runTestIdle
  | .updateIr, true => .selectDrScan

/-- The TAP state after a list of rising edges with these TMS levels, oldest first. -/
def TapState.after (t : TapState) (levels : List Bool) : TapState := levels.foldl TapState.next t

/-- The TMS levels a transition drives, in order: pattern bit 0 first (20_memory.md R58, 40_kernels.md R100). -/
def transitionLevels (t : Transition) : List Bool := (List.range t.count).map t.pattern.getLsbD

end Sys2Proof.Machine
end

