-- ==== Sys2Proof/Machine/Params.lean ====
section
/-! DEFINITION. The fixed constants and the default values of the parameters (00_scope.md R6), and the check of a
configuration that a model makes before a playback (60_exceptions.md R206). -/

namespace Sys2Proof.Machine

/-- Attempts of the compare-and-retry sequencer: 32, fixed (R6, 42_compare_retry.md R173). -/
abbrev maxAttempts : Nat := 32

/-- `FSM_MAX`, the largest count clock-FSM accepts: 32, fixed (R6, 40_kernels.md R100). -/
abbrev fsmMax : Nat := 32

/-- The default opcode values (30_encoding.md R73; the spec's general knowledge, D3; log 4). -/
def defaultOpc : OpcTable :=
  { complete := 0x00, declareTdoMask := 0x01, shiftInstruction := 0x02, shiftData := 0x03,
    declareRunTest := 0x04, declareShiftSize := 0x08, shiftDataCompare := 0x09 }

/-- The default transitions (40_kernels.md R111; the spec's general knowledge, D4; log 5). -/
def defaultSeq : TapSeq :=
  { resetIdle := { pattern := 0x0000001F, count := 6 }, enterSir := { pattern := 0x00000003, count := 4 },
    enterSdr := { pattern := 0x00000001, count := 3 }, exitIdle := { pattern := 0x00000001, count := 2 } }

/-- The configuration at reset. `BUF_CAP` has no value in the spec; 16 is the convention of 95_test_vectors.md
(DESIGN CHOICE, log 3). `ZERO_SHIFT` is the spec's default (log 6). -/
def defaultConfig : Config :=
  { bufCap := 16, opc := defaultOpc, seq := defaultSeq, zeroShift := .refuse }

/-- The seven opcode values, in the order of the table of R73. -/
def opcValues (o : OpcTable) : List Byte :=
  [o.complete, o.declareTdoMask, o.shiftInstruction, o.shiftData, o.declareRunTest, o.declareShiftSize,
   o.shiftDataCompare]

/-- "The seven values must be distinct" (R73). -/
def opcDistinct (o : OpcTable) : Bool := decide (opcValues o).Nodup

/-- No transition drives more than `FSM_MAX` levels (R100). -/
def seqCountsOk (q : TapSeq) : Bool :=
  [q.resetIdle, q.enterSir, q.enterSdr, q.exitIdle].all (fun t => t.count ≤ fsmMax)

/-- The last TMS level of the transition is 0 (R112). -/
def endsLow (t : Transition) : Bool := (transitionLevels t).getLast? == some false

/-- The conditions of 40_kernels.md R112 on the TAP paths of a `SEQ`. -/
def seqPathsOk (q : TapSeq) : Bool :=
  TapState.all.all (fun t => t.after (transitionLevels q.resetIdle) == .runTestIdle)
    && TapState.runTestIdle.after (transitionLevels q.enterSir) == .shiftIr
    && TapState.runTestIdle.after (transitionLevels q.enterSdr) == .shiftDr
    && TapState.exit1Ir.after (transitionLevels q.exitIdle) == .runTestIdle
    && TapState.exit1Dr.after (transitionLevels q.exitIdle) == .runTestIdle
    && [q.resetIdle, q.enterSir, q.enterSdr, q.exitIdle].all endsLow

/-- What is wrong with a configuration, none where it may be played back (R206, U19). Where several things are wrong the
first in the order of R206 is named (DESIGN CHOICE, log 9). -/
def configFault (c : Config) : Option ConfigFault :=
  if !opcDistinct c.opc then some .opcNotDistinct
  else if !seqCountsOk c.seq then some .seqCountAboveMax
  else if !seqPathsOk c.seq then some .seqPath
  else if c.bufCap < 1 then some .bufCapZero
  else none

end Sys2Proof.Machine
end

