-- ==== Sys2Proof/Machine/Bits.lean ====
section
/-! DEFINITION. The arithmetic helpers of 00_scope.md R9 and R10, and the byte layout of table words. -/

namespace Sys2Proof.Machine

/-- The number of bytes that hold `n` bits, exact on the naturals (R10, D22). -/
def ceil8 (n : Nat) : Nat := (n + 7) / 8

/-- A 4-byte big-endian count: `b0` is the first byte read and the most significant, so the value is
b0·2^24 + b1·2^16 + b2·2^8 + b3 (R10, R56). -/
def be32 (b0 b1 b2 b3 : Byte) : U32 := ((b0 ++ b1 : BitVec 16) ++ (b2 ++ b3 : BitVec 16) : BitVec 32)

/-- The four bytes of a count, most significant first: the inverse of `be32` (R56). -/
def be32Bytes (c : U32) : List Byte :=
  [c.extractLsb' 24 8, c.extractLsb' 16 8, c.extractLsb' 8 8, c.extractLsb' 0 8]

/-- Bit `k` of a byte sequence: bit `k mod 8` of byte `k div 8` (R9, R57). -/
def bitAt (bytes : List Byte) (k : Nat) : Bool := (bytes.getD (k / 8) 0).getLsbD (k % 8)

/-- A byte holding one bit at position `j`: `b << j` (40_kernels.md R105). -/
def bitByte (b : Bool) (j : Nat) : Byte := (BitVec.ofBool b).setWidth 8 <<< j

/-- `n` bytes of a table word, the first byte in bits 7 to 0. -/
def wordBytes : Nat → Nat → List Byte
  | 0, _ => []
  | n + 1, w => BitVec.ofNat 8 w :: wordBytes n (w / 256)

end Sys2Proof.Machine
end

