-- ==== Sys2Proof/Syntax.lean ====
section
/-! DEFINITION. The records of the byte-code: one constructor per row of spec/opcode_table.json, with the operands of
30_encoding.md R72. -/

namespace Sys2Proof

/-- One record, opcode and operands (30_encoding.md R70, R72). -/
inductive Instr where
  /-- sentinel: the playback ends with success (R158) -/
  | complete
  /-- `VEC`: the mask bytes, byte 0 first (R132) -/
  | declareTdoMask (mask : List Byte)
  /-- `SIR`: the bit count and the instruction bytes (R146) -/
  | shiftInstruction (n : BitVec 8) (data : List Byte)
  /-- `VEC`: the data bytes (R152) -/
  | shiftData (data : List Byte)
  /-- `U32`: idle pulses after each later shift (R136) -/
  | declareRunTest (count : U32)
  /-- `U32`: bits of each later data shift (R142) -/
  | declareShiftSize (bits : U32)
  /-- `CMP`: pairs (data byte, expected byte) (R170, R171) -/
  | shiftDataCompare (pairs : List (Byte × Byte))
  deriving DecidableEq, Repr

end Sys2Proof
end

