-- ==== Sys2Proof/WellFormed.lean ====
section
/-! DEFINITION. When a record is one the decoder can read at a given `shiftLength`: each vector operand has exactly the
byte count its format gives it (30_encoding.md R72). Every operand value is legal otherwise (R78). -/

namespace Sys2Proof

/-- The operand lengths of 30_encoding.md R72, with `shiftLength` as it stands when the record is read (R75). -/
def Instr.WellFormed (shiftLength : U32) : Instr → Bool
  | .complete => true
  | .declareTdoMask mask => mask.length == Machine.ceil8 shiftLength.toNat
  | .shiftInstruction n data => data.length == Machine.ceil8 n.toNat
  | .shiftData data => data.length == Machine.ceil8 shiftLength.toNat
  | .declareRunTest _ => true
  | .declareShiftSize _ => true
  | .shiftDataCompare pairs => pairs.length == Machine.ceil8 shiftLength.toNat

end Sys2Proof
end

