-- ==== Sys2Proof/Decode.lean ====
section
/-! DEFINITION. The decoder, total on any bytes, and the encoder, both from the formats of 30_encoding.md R72 and an opcode
table `OPC` (R73). Decoding is stateful: the length of a vector operand follows from `shiftLength` as it stands (R75). -/

namespace Sys2Proof

open Sys2Proof.Machine (ceil8 be32 be32Bytes wordBytes defaultConfig)

/-- Why the bytes at `pc` are no record. Each names the read that fails or the byte that is unsupported, from which
60_exceptions.md R208 gives the outcome. -/
inductive DecodeError where
  /-- no opcode byte (R208, check 1) -/
  | missingOpcode
  /-- the opcode byte is none of the seven (check 2) -/
  | unsupported (op : Byte)
  /-- a shift-instruction count byte or a `U32` count is missing or short (check 3) -/
  | shortCount
  /-- a `VEC` or `CMP` operand is short (check 6) -/
  | shortVector
  /-- the data bytes of a shift-instruction with count `n` are short (checks 4 and 6) -/
  | shortInstruction (n : BitVec 8)
  deriving DecidableEq, Repr

/-- What the decoder finds: a record and the bytes after it, or why there is none. -/
inductive Decoded where
  | record (i : Instr) (rest : List Byte)
  | failed (e : DecodeError)
  deriving DecidableEq, Repr

/-- The next `n` bytes and the rest, none where fewer are left (20_memory.md R53). -/
def takeBytes (n : Nat) (bs : List Byte) : Option (List Byte × List Byte) :=
  if n ≤ bs.length then some (bs.take n, bs.drop n) else none

/-- Bytes as pairs (byte 2i, byte 2i+1) (42_compare_retry.md R171). -/
def pairUp : List Byte → List (Byte × Byte)
  | d :: e :: bs => (d, e) :: pairUp bs
  | _ => []

/-- Pairs as interleaved bytes (30_encoding.md R72, `CMP`). -/
def interleave : List (Byte × Byte) → List Byte
  | [] => []
  | (d, e) :: ps => d :: e :: interleave ps

/-- Format `VEC` (R72). -/
def decodeVec (mk : List Byte → Instr) (m : Nat) (bs : List Byte) : Decoded :=
  match takeBytes m bs with
  | some (v, rest) => .record (mk v) rest
  | none => .failed .shortVector

/-- Format `U32` (R72, R74). -/
def decodeU32 (mk : U32 → Instr) (bs : List Byte) : Decoded :=
  match bs with
  | b0 :: b1 :: b2 :: b3 :: rest => .record (mk (be32 b0 b1 b2 b3)) rest
  | _ => .failed .shortCount

/-- Format `SIR` (R72). -/
def decodeSir (bs : List Byte) : Decoded :=
  match bs with
  | [] => .failed .shortCount
  | n :: bs =>
    match takeBytes (ceil8 n.toNat) bs with
    | some (v, rest) => .record (.shiftInstruction n v) rest
    | none => .failed (.shortInstruction n)

/-- Format `CMP` (R72). -/
def decodeCmp (m : Nat) (bs : List Byte) : Decoded :=
  match takeBytes (2 * m) bs with
  | some (v, rest) => .record (.shiftDataCompare (pairUp v)) rest
  | none => .failed .shortVector

/-- Read one record: the arms of 41_opcodes.md R131, in its order. -/
def decode (opc : OpcTable) (shiftLength : U32) : List Byte → Decoded
  | [] => .failed .missingOpcode
  | op :: bs =>
    if op = opc.declareTdoMask then decodeVec .declareTdoMask (ceil8 shiftLength.toNat) bs
    else if op = opc.declareRunTest then decodeU32 .declareRunTest bs
    else if op = opc.declareShiftSize then decodeU32 .declareShiftSize bs
    else if op = opc.shiftInstruction then decodeSir bs
    else if op = opc.shiftData then decodeVec .shiftData (ceil8 shiftLength.toNat) bs
    else if op = opc.shiftDataCompare then decodeCmp (ceil8 shiftLength.toNat) bs
    else if op = opc.complete then .record .complete bs
    else .failed (.unsupported op)

/-- The opcode byte of a record (R73). -/
def Instr.opcode (opc : OpcTable) : Instr → Byte
  | .complete => opc.complete
  | .declareTdoMask _ => opc.declareTdoMask
  | .shiftInstruction _ _ => opc.shiftInstruction
  | .shiftData _ => opc.shiftData
  | .declareRunTest _ => opc.declareRunTest
  | .declareShiftSize _ => opc.declareShiftSize
  | .shiftDataCompare _ => opc.shiftDataCompare

/-- The operand bytes of a record, in the layout of R72. -/
def Instr.operandBytes : Instr → List Byte
  | .complete => []
  | .declareTdoMask mask => mask
  | .shiftInstruction n data => n :: data
  | .shiftData data => data
  | .declareRunTest count => be32Bytes count
  | .declareShiftSize bits => be32Bytes bits
  | .shiftDataCompare pairs => interleave pairs

/-- The bytes of a record: the opcode byte, then the operand (R70, R72). -/
def encode (opc : OpcTable) (i : Instr) : List Byte := i.opcode opc :: i.operandBytes

/-- The length of a record in bytes at a given `shiftLength`: the table of R76. -/
def recordLength (shiftLength : U32) : Instr → Nat
  | .complete => 1
  | .declareTdoMask _ => 1 + ceil8 shiftLength.toNat
  | .shiftInstruction n _ => 2 + ceil8 n.toNat
  | .shiftData _ => 1 + ceil8 shiftLength.toNat
  | .declareRunTest _ => 5
  | .declareShiftSize _ => 5
  | .shiftDataCompare _ => 1 + 2 * ceil8 shiftLength.toNat

/-- The longest record a configuration admits, in bytes: a shift-data-compare at full capacity (R76), or a
shift-instruction of 255 bits. -/
def longestRecord (c : Config) : Nat := max (1 + 2 * c.bufCap) 34

/-- A table word as the bytes the program holds: the word's own bytes, then zeros up to the longest record. -/
def tableWordBytes (c : Config) (nbits w : Nat) : List Byte :=
  wordBytes (nbits / 8) w ++ List.replicate (longestRecord c - nbits / 8) 0

/-- The record the decoder reads from a table word at the reset configuration and the reset `shiftLength`, 0 (log 25). -/
def decodeTableWord (nbits w : Nat) : Option Instr :=
  match decode defaultConfig.opc 0 (tableWordBytes defaultConfig nbits w) with
  | .record i _ => some i
  | .failed _ => none

end Sys2Proof
end

