-- ==== Sys2Proof/Machine/Memory.lean ====
section
/-! DEFINITION. Byte storage: the program space and the four shift buffers (20_memory.md R50, R54). One canonical form:
addresses strictly rising, and no entry equal to what an unlisted address reads as. Accesses are byte accesses (R61). -/

namespace Sys2Proof.Machine

/-- Bytes by address, an address that is not listed reading as `Memory.unlisted`. -/
abbrev Memory := List Host.Cell

/-- What an unlisted address reads as: 0x00, the start value of every buffer byte (70_reset_and_hazards.md R230; log 10). -/
abbrev Memory.unlisted : Byte := 0

/-- The canonical form: equal memories are equal lists. -/
abbrev Memory.wf (m : Memory) : Prop :=
  m.Pairwise (fun c d => c.1 < d.1) ∧ ∀ c ∈ m, c.2 ≠ Memory.unlisted

/-- Every listed address is below `n`. -/
abbrev Memory.within (m : Memory) (n : Nat) : Prop := ∀ c ∈ m, c.1 < n

/-- Read one byte. -/
def Memory.read : Memory → Nat → Byte
  | [], _ => Memory.unlisted
  | (k, v) :: m, a => if k = a then v else Memory.read m a

/-- Drop the entry of an address. -/
def Memory.drop (m : Memory) (a : Nat) : Memory := m.filter (fun c => c.1 != a)

/-- Put an entry before the first one with a higher address. -/
def Memory.put (a : Nat) (b : Byte) : Memory → Memory
  | [] => [(a, b)]
  | (k, v) :: m => if a < k then (a, b) :: (k, v) :: m else (k, v) :: Memory.put a b m

/-- Write one byte, keeping the canonical form: the value an unlisted address reads as is not listed. -/
def Memory.write (m : Memory) (a : Nat) (b : Byte) : Memory :=
  if b = Memory.unlisted then m.drop a else (m.drop a).put a b

/-- Write bytes at `a`, `a+1`, ... in order. -/
def Memory.writeBytes (m : Memory) (a : Nat) : List Byte → Memory
  | [] => m
  | b :: bs => Memory.writeBytes (m.write a b) (a + 1) bs

/-- The `n` bytes at `a`, `a+1`, ... in order: `MemRead(a, n)` where it is in range (R11, R61). -/
def Memory.readBytes (m : Memory) (a n : Nat) : List Byte := (List.range n).map (fun i => m.read (a + i))

/-- `bitAt(buf, k)` of a buffer (00_scope.md R9). -/
def Memory.bit (m : Memory) (k : Nat) : Bool := (m.read (k / 8)).getLsbD (k % 8)

/-- OR a sampled bit into its place: `out[k div 8] <- out[k div 8] | (b << (k mod 8))` (40_kernels.md R105). -/
def Memory.orBit (m : Memory) (k : Nat) (b : Bool) : Memory :=
  m.write (k / 8) (m.read (k / 8) ||| bitByte b (k % 8))

end Sys2Proof.Machine
end

