-- ==== Sys2Proof/Machine/State.lean ====
section
/-! DEFINITION. The playback state (10_state.md R20), as plain data, with the inputs of the playback beside it, and the
state at reset, which is the start of a playback (70_reset_and_hazards.md R230). -/

namespace Sys2Proof.Machine

/-- The level of an output line: `unknown` before the block first writes it (R33). -/
inductive Level where
  | unknown
  | driven (b : Bool)
  deriving DecidableEq, Repr

/-- The last level written to each output line (R33). -/
structure Lines where
  tck : Level
  tms : Level
  tdi : Level
  deriving DecidableEq, Repr

/-- One pin operation as the trace records it (R31, R32). -/
inductive PinEvent where
  | tck (b : Bool)
  | tms (b : Bool)
  | tdi (b : Bool)
  /-- a sample of TDO that returned `b` -/
  | tdo (b : Bool)
  deriving DecidableEq, Repr

/-- How a playback ends (60_exceptions.md R200). -/
inductive Result where
  | success
  | badCommand (op : Byte)
  | mismatch (got mask expected : List Byte)
  | capacity (bits : Nat)
  | truncatedProgram (offset : Nat)
  deriving DecidableEq, Repr

/-- Why the spec gives a playback no meaning from some point (60_exceptions.md R206). -/
inductive RefuseReason where
  | zeroLengthShift (op : Byte) (pc : Nat)
  | badConfig (what : ConfigFault)
  deriving DecidableEq, Repr

/-- The block's status output (R30). -/
inductive Status where
  | running
  | done (r : Result)
  | refused (reason : RefuseReason)
  deriving DecidableEq, Repr

/-- The machine. The fields from `pc` to `status` are the record of R20. -/
structure State where
  /-- the configuration given at start; never written (R234; log 2) -/
  cfg : Config
  /-- the program bytes; never written (R50; log 10) -/
  prog : Memory
  /-- how many program bytes the host gave (R52) -/
  progLen : Nat
  /-- the prologue of R130 has run: it runs once, before the first read (log 8) -/
  prologueDone : Bool
  /-- offset of the next record's opcode byte (R21) -/
  pc : Nat
  /-- bits of later data shifts (R22) -/
  shiftLength : U32
  /-- idle pulses after each shift (R23) -/
  idleClocks : U32
  /-- compare mask (R24) -/
  inMask : Memory
  /-- TDI data (R25) -/
  inData : Memory
  /-- sampled TDO data (R26) -/
  outData : Memory
  /-- expected TDO data (R27) -/
  expData : Memory
  /-- last level of each output line (R33) -/
  lines : Lines
  /-- every pin operation so far, oldest first (R32) -/
  trace : List PinEvent
  /-- the status output (R30) -/
  status : Status
  /-- the MODEL's own: the target's next TDO answers, oldest first (R240; log 7) -/
  tdoNext : List Bool
  /-- the MODEL's own: how many samples were taken; it picks the free draw when `tdoNext` is empty (R240; log 7) -/
  tdoDraws : Nat
  /-- the MODEL's own, never written: which pin operation of the playback, counting from 0, never returns; none where the host keeps
  its duty and every one returns (70_reset_and_hazards.md R235, U13; log 29) -/
  hangsAt : Option Nat
  deriving DecidableEq, Repr

/-- Why a step stops with a fault. The block's own errors are outcomes on `status`, not faults (R204). -/
inductive Fault where
  /-- A buffer access at an index at or above `BUF_CAP` (`bytes` bytes from index 0). Raised by the meanings that load a
  buffer, in states no run reaches (20_memory.md R54; U3: undefined). Safe: nothing is proved of such a state. Log 13. -/
  | bufferOutOfRange (bytes : Nat)
  /-- The block is STUCK: a pin operation never returned, and the block has no timeout (70_reset_and_hazards.md R235; U13: `stuck`).
  `returned` is the trace of the operations that did return, all that the pins ever show. Raised by `step`, through `awaitPins`. Safe:
  nothing follows. Log 29. -/
  | pinNeverReturns (returned : List PinEvent)
  deriving DecidableEq, Repr

/-- Why a step has no meaning. -/
inductive Refusal where
  /-- An instruction with no meaning yet, by name; raised by `exec`'s arms only. Safe. -/
  | notModelled (mnemonic : String)
  /-- A step after `status` became `Refused`: the spec gives the rest of the playback no meaning (60_exceptions.md R206,
  41_opcodes.md R164). Raised by `step`. Safe: it errs toward unprovable. Log 12. -/
  | playbackRefused (reason : RefuseReason)
  deriving DecidableEq, Repr

/-- The answer of a step or a meaning. -/
abbrev StepOutcome := Host.Outcome State Fault Refusal

/-- The start of a playback before the host has given it a program: the values of R230, the default configuration, no
program, pins that return (log 3 to 7, 10, 29). -/
def State.reset : State :=
  { cfg := defaultConfig
    prog := []
    progLen := 0
    prologueDone := false
    pc := 0
    shiftLength := 0
    idleClocks := 0
    inMask := []
    inData := []
    outData := []
    expData := []
    lines := { tck := .driven false, tms := .unknown, tdi := .unknown }
    trace := []
    status := .running
    tdoNext := []
    tdoDraws := 0
    hangsAt := none }

end Sys2Proof.Machine
end

