-- ==== Sys2Proof/Machine/Ops.lean ====
section
/-! DEFINITION. The named operations over the state: the pin primitives of 00_scope.md R11, waiting for them to return, ending a playback (raise, finish,
refuse), moving the cursor, reading the program, and the guard on buffer indices. -/

namespace Sys2Proof.Machine

/-! ### Pin primitives (R11, R31, R33) -/

/-- `TCK(b)`. -/
def State.pinTck (b : Bool) (s : State) : State :=
  { s with lines := { s.lines with tck := .driven b }, trace := s.trace ++ [.tck b] }

/-- `TMS(b)`. -/
def State.pinTms (b : Bool) (s : State) : State :=
  { s with lines := { s.lines with tms := .driven b }, trace := s.trace ++ [.tms b] }

/-- `TDI(b)`. -/
def State.pinTdi (b : Bool) (s : State) : State :=
  { s with lines := { s.lines with tdi := .driven b }, trace := s.trace ++ [.tdi b] }

/-- `pulse()`: `TCK(1); TCK(0)` (R11). -/
def State.pulse (s : State) : State := (s.pinTck true).pinTck false

/-- The target's `j`-th next answer, counting from 0: listed in `tdoNext`, or a free draw (R240; log 7). -/
def State.draw (s : State) (j : Nat) : Bool := s.tdoNext.getD j (Config.freeTdo (s.tdoDraws + j))

/-- `SampleTDO()`: takes the next answer; the sampled bit is `s.draw 0` (R11, R62). -/
def State.sampleTdo (s : State) : State :=
  { s with tdoNext := s.tdoNext.tail, tdoDraws := s.tdoDraws + 1, trace := s.trace ++ [.tdo (s.draw 0)] }

/-! ### A pin operation that never returns (70_reset_and_hazards.md R235, U13; log 29) -/

/-- The trace at the pin operation that never returns, where one of those performed from `s` to `t` is it. -/
def State.hungIn (s t : State) : Option (List PinEvent) :=
  s.hangsAt.bind fun n => if s.trace.length ≤ n ∧ n < t.trace.length then some (t.trace.take n) else none

/-- Wait for every pin operation of a step to return: where one never does the block is stuck in it. -/
def awaitPins (s : State) (o : StepOutcome) : StepOutcome :=
  match o with
  | .next t =>
    match s.hungIn t with
    | some returned => .fault (.pinNeverReturns returned)
    | none => .next t
  | .fault f => .fault f
  | .refused r => .refused r

/-! ### Ending a playback -/

/-- Set the status output. -/
def State.setStatus (st : Status) (s : State) : State := { s with status := st }

/-- `raise E(info)`: every error of the block ends the playback this way, saving no other state (60_exceptions.md R204). -/
def State.raise (r : Result) (s : State) : State := s.setStatus (.done r)

/-- `finish Success` (41_opcodes.md R158). -/
def State.finish (s : State) : State := s.setStatus (.done .success)

/-- `refuse Reason` (60_exceptions.md R206). -/
def State.refuse (r : RefuseReason) (s : State) : State := s.setStatus (.refused r)

/-- The outcome code on the status output (R200; the spec's own numbering, D15). -/
def Result.code : Result → Nat
  | .success => 0
  | .badCommand _ => 1
  | .mismatch _ _ _ => 2
  | .capacity _ => 3
  | .truncatedProgram _ => 4

/-- The host's diagnostic text for an outcome: the offending opcode, or the last sampled data, the mask and the expected
data (60_exceptions.md R202, R204; 42_compare_retry.md R177). Rendering is the host's `hexRender` (D16; log 18). R204's string is
"optional" and no rule gives its contents for the other outcomes: none for success, Capacity and TruncatedProgram is the model's choice
(DESIGN CHOICE, log 28). -/
def Result.diagnostic : Result → Option (List String)
  | .badCommand op => some [Config.hexRender [op]]
  | .mismatch got mask expected => some [Config.hexRender got, Config.hexRender mask, Config.hexRender expected]
  | .success => none
  | .capacity _ => none
  | .truncatedProgram _ => none

/-! ### The cursor, the interpreter registers and the program -/

/-- Move `pc` past `n` bytes (10_state.md R21). -/
def State.advance (n : Nat) (s : State) : State := { s with pc := s.pc + n }

/-- `st.shiftLength <- c` (R142). -/
def State.setShiftLength (c : U32) (s : State) : State := { s with shiftLength := c }

/-- `st.idleClocks <- c` (R136). -/
def State.setIdleClocks (c : U32) (s : State) : State := { s with idleClocks := c }

/-- The prologue has run (R130). -/
def State.markPrologue (s : State) : State := { s with prologueDone := true }

/-- The program bytes from offset `a` to the end (20_memory.md R50). -/
def State.programFrom (s : State) (a : Nat) : List Byte := s.prog.readBytes a (s.progLen - a)

/-! ### Buffers -/

/-- Bits a buffer can hold: 8·`BUF_CAP`. -/
def State.capacityBits (s : State) : Nat := 8 * s.cfg.bufCap

/-- Go on where `m` bytes from index 0 lie inside a buffer; else the access does not exist (20_memory.md R54; log 13). -/
def State.withRoom (s : State) (m : Nat) (act : StepOutcome) : StepOutcome :=
  if m ≤ s.cfg.bufCap then act else .fault (.bufferOutOfRange m)

/-- Replace the sample buffer. -/
def State.setOutData (m : Memory) (s : State) : State := { s with outData := m }

end Sys2Proof.Machine
end

