-- ==== Sys2Proof/Machine/Flags.lean ====
section
/-! DEFINITION. The one condition the block computes, the outcome of a compare, which lives only inside a shift-data-compare
record (10_state.md R29). The block has no flags or condition codes that persist. -/

namespace Sys2Proof.Machine

/-- `match(m)`: sampled and expected bytes agree under the mask, for every byte below `m` (42_compare_retry.md R174). -/
def State.compareMatches (s : State) (m : Nat) : Bool :=
  (List.range m).all (fun i => (s.outData.read i &&& s.inMask.read i) == (s.expData.read i &&& s.inMask.read i))

/-- The outcome of exhausted retries: the last samples, the mask and the expected bytes (R177). -/
def State.mismatchOutcome (s : State) (m : Nat) : Result :=
  .mismatch (s.outData.readBytes 0 m) (s.inMask.readBytes 0 m) (s.expData.readBytes 0 m)

end Sys2Proof.Machine
end

