-- ==== Sys2Proof/Machine/Operands.lean ====
section
/-! DEFINITION. Where each operand form goes: the copies of operand bytes into fixed buffers at indices 0 to m−1
(41_opcodes.md R169, 20_memory.md R54), and the checks on bit counts. -/

namespace Sys2Proof.Machine

/-- A `VEC` mask operand into `inMask` (R132). Bytes past it keep their values. -/
def State.loadMask (v : List Byte) (s : State) : State := { s with inMask := s.inMask.writeBytes 0 v }

/-- Data operand bytes into `inData` (R146, R152, R171). -/
def State.loadData (v : List Byte) (s : State) : State := { s with inData := s.inData.writeBytes 0 v }

/-- Expected operand bytes into `expData` (R171). -/
def State.loadExpected (v : List Byte) (s : State) : State := { s with expData := s.expData.writeBytes 0 v }

/-- A `CMP` operand: first of each pair to `inData`, second to `expData` (R171). -/
def State.loadPairs (ps : List (Byte × Byte)) (s : State) : State :=
  (s.loadData (ps.map Prod.fst)).loadExpected (ps.map Prod.snd)

/-- A shift of `bits` bits is refused: no bits, and `ZERO_SHIFT` is `Refuse` (R164). -/
def State.refusesShift (s : State) (bits : Nat) : Bool := bits == 0 && s.cfg.zeroShift == .refuse

/-- A declared bit count exceeds a buffer (R142, R146). -/
def State.exceedsCapacity (s : State) (bits : Nat) : Bool := decide (s.capacityBits < bits)

end Sys2Proof.Machine
end

