-- ==== Sys2Proof/Machine/Kernels.lean ====
section
/-! DEFINITION. The four bit-shift kernels, the fixed TAP transitions and the scan sequences (40_kernels.md). -/

namespace Sys2Proof.Machine

/-- clock-FSM(pattern, count) (R100). -/
def clockFsm (pattern : U32) : Nat → State → State
  | 0, s => s
  | n + 1, s => clockFsm (pattern >>> 1) n (s.pinTms (pattern.getLsbD 0)).pulse

/-- idle-clocks(count) (R102). -/
def pulses : Nat → State → State
  | 0, s => s
  | n + 1, s => pulses n s.pulse

/-- The end of one shift bit: TMS(1) on the final bit only, then the pulse (R103, R105). -/
def State.clockBit (last : Bool) (s : State) : State := (if last then s.pinTms true else s).pulse

/-- shift-in-only from bit `k`, with `r` bits to go (R103). -/
def shiftInFrom (buf : Memory) (k : Nat) : Nat → State → State
  | 0, s => s
  | r + 1, s => shiftInFrom buf (k + 1) r ((s.pinTdi (buf.bit k)).clockBit (r == 0))

/-- shift-in-only(numBits, buf) (R103). -/
def shiftInOnly (numBits : Nat) (buf : Memory) (s : State) : State := shiftInFrom buf 0 numBits s

/-- Sample TDO and store the bit as sample `k` of `outData` (R105). -/
def State.sampleInto (k : Nat) (s : State) : State := s.sampleTdo.setOutData (s.outData.orBit k (s.draw 0))

/-- shift-in-out from bit `k`, with `r` bits to go (R105). -/
def shiftInOutFrom (buf : Memory) (k : Nat) : Nat → State → State
  | 0, s => s
  | r + 1, s => shiftInOutFrom buf (k + 1) r (((s.pinTdi (buf.bit k)).sampleInto k).clockBit (r == 0))

/-- Clear the bytes of `outData` that `numBits` samples will fill (R105, D10). -/
def State.clearOut (numBits : Nat) (s : State) : State :=
  s.setOutData (s.outData.writeBytes 0 (List.replicate (ceil8 numBits) 0))

/-- shift-in-out(numBits, buf, outData) (R105). -/
def shiftInOut (numBits : Nat) (buf : Memory) (s : State) : State := shiftInOutFrom buf 0 numBits (s.clearOut numBits)

/-- One fixed TAP transition (R110). -/
def State.transition (t : Transition) (s : State) : State := clockFsm t.pattern t.count s

/-- Idle pulses after a shift, if `idleClocks` is not 0 (R115, R116). -/
def State.idlePulses (s : State) : State := if s.idleClocks ≠ 0 then pulses s.idleClocks.toNat s else s

/-- The end of every scan: exit to Run-Test/Idle, then the idle pulses (R115, R116). -/
def State.leaveShift (s : State) : State := (s.transition s.cfg.seq.exitIdle).idlePulses

/-- scanIR(n, inData) (R115). -/
def scanIr (n : Nat) (s : State) : State :=
  (shiftInOnly n s.inData (s.transition s.cfg.seq.enterSir)).leaveShift

/-- scanDR(n, inData, false) (R116). -/
def scanDrOnly (n : Nat) (s : State) : State :=
  (shiftInOnly n s.inData (s.transition s.cfg.seq.enterSdr)).leaveShift

/-- scanDR(n, inData, true) (R116). -/
def scanDrSample (n : Nat) (s : State) : State :=
  (shiftInOut n s.inData (s.transition s.cfg.seq.enterSdr)).leaveShift

/-- The reset-and-idle prologue (41_opcodes.md R130). -/
def State.prologue (s : State) : State := (s.transition s.cfg.seq.resetIdle).markPrologue

end Sys2Proof.Machine
end

