-- ==== Sys2Proof/Machine/Compare.lean ====
section
/-! DEFINITION. The compare-with-retry sequencer (42_compare_retry.md). -/

namespace Sys2Proof.Machine

/-- The retry loop with `r` attempts left: scan, compare, stop on a match; when no attempt is left, the mismatch is raised
(R170, R172, R173, R177). -/
def attempts (bits m : Nat) : Nat → State → State
  | 0, s => s.raise (s.mismatchOutcome m)
  | r + 1, s =>
    let t := scanDrSample bits s
    if t.compareMatches m then t else attempts bits m r t

/-- shift-data-compare (R170). -/
def execShiftDataCompare (pairs : List (Byte × Byte)) (s : State) : StepOutcome :=
  if s.refusesShift s.shiftLength.toNat then .next (s.refuse (.zeroLengthShift s.cfg.opc.shiftDataCompare s.pc))
  else s.withRoom pairs.length
    (.next (attempts s.shiftLength.toNat pairs.length maxAttempts
      ((s.loadPairs pairs).advance (1 + 2 * pairs.length))))

end Sys2Proof.Machine
end

