-- ==== Sys2Proof/Machine/Control.lean ====
section
/-! DEFINITION. The sentinel, the only opcode that acts on the block itself (41_opcodes.md R158, R169). -/

namespace Sys2Proof.Machine

/-- sentinel (complete) (R158). -/
def execComplete (s : State) : StepOutcome := .next (s.advance 1).finish

end Sys2Proof.Machine
end

