-- ==== Sys2Proof/Machine/Declarations.lean ====
section
/-! DEFINITION. The meanings of the three declarations (41_opcodes.md section 2). None performs a pin operation. -/

namespace Sys2Proof.Machine

/-- declare-TDO-mask (R132). -/
def execDeclareTdoMask (mask : List Byte) (s : State) : StepOutcome :=
  s.withRoom mask.length (.next ((s.loadMask mask).advance (1 + mask.length)))

/-- declare-run-test (R136). -/
def execDeclareRunTest (count : U32) (s : State) : StepOutcome :=
  .next ((s.setIdleClocks count).advance 5)

/-- declare-shift-size (R142). -/
def execDeclareShiftSize (bits : U32) (s : State) : StepOutcome :=
  if s.exceedsCapacity bits.toNat then .next (s.raise (.capacity bits.toNat))
  else .next ((s.setShiftLength bits).advance 5)

end Sys2Proof.Machine
end

