-- ==== Sys2Proof/Machine/Shifts.lean ====
section
/-! DEFINITION. The meanings of the two shifts that do not compare (41_opcodes.md section 3). -/

namespace Sys2Proof.Machine

/-- shift-instruction (R146): capacity, then zero length, then the load and the scan (60_exceptions.md R208). -/
def execShiftInstruction (n : BitVec 8) (data : List Byte) (s : State) : StepOutcome :=
  if s.exceedsCapacity n.toNat then .next (s.raise (.capacity n.toNat))
  else if s.refusesShift n.toNat then .next (s.refuse (.zeroLengthShift s.cfg.opc.shiftInstruction s.pc))
  else s.withRoom data.length (.next (scanIr n.toNat ((s.loadData data).advance (2 + data.length))))

/-- shift-data (R152). -/
def execShiftData (data : List Byte) (s : State) : StepOutcome :=
  if s.refusesShift s.shiftLength.toNat then .next (s.refuse (.zeroLengthShift s.cfg.opc.shiftData s.pc))
  else s.withRoom data.length (.next (scanDrOnly s.shiftLength.toNat ((s.loadData data).advance (1 + data.length))))

end Sys2Proof.Machine
end

