-- ==== Sys2Proof/Machine/Dispatch.lean ====
section
/-! DEFINITION. The dispatch of 41_opcodes.md R131: one arm per record, each one call of its meaning. -/

namespace Sys2Proof.Machine

/-- The meaning of a record. -/
def exec (i : Instr) (s : State) : Host.Outcome State Fault Refusal :=
  match i with
  | .complete => Sys2Proof.Machine.execComplete s
  | .declareTdoMask mask => Sys2Proof.Machine.execDeclareTdoMask mask s
  | .shiftInstruction n data => Sys2Proof.Machine.execShiftInstruction n data s
  | .shiftData data => Sys2Proof.Machine.execShiftData data s
  | .declareRunTest count => Sys2Proof.Machine.execDeclareRunTest count s
  | .declareShiftSize bits => Sys2Proof.Machine.execDeclareShiftSize bits s
  | .shiftDataCompare pairs => Sys2Proof.Machine.execShiftDataCompare pairs s

end Sys2Proof.Machine
end

