-- ==== Sys2Proof/Machine/Fetch.lean ====
section
/-! DEFINITION. The start of a playback, fetching a record at `pc`, and what a record that cannot be read raises
(41_opcodes.md R130, R131; 60_exceptions.md R208). -/

namespace Sys2Proof.Machine

/-- The host's start of a playback: a configuration, the program bytes and the target's answers to come, over the values of
R230 (70_reset_and_hazards.md R234, R38; log 10). -/
def State.playback (cfg : Config) (program : List Byte) (answers : List Bool) : State :=
  { State.reset with
    cfg := cfg, prog := Memory.writeBytes [] 0 program, progLen := program.length, tdoNext := answers }

/-- The first action of a playback: a bad configuration is refused (R206), else the prologue runs (R130, R231). -/
def State.start (s : State) : State :=
  match configFault s.cfg with
  | some f => s.refuse (.badConfig f)
  | none => s.prologue

/-- Decode the bytes at `pc`, with `shiftLength` as it stands (30_encoding.md R75). -/
def State.fetch (s : State) : Decoded := decode s.cfg.opc s.shiftLength (s.programFrom s.pc)

/-- The outcome of bytes that are no record, in the order of R208; `pc` stays at the opcode byte (R160, R205). -/
def State.decodeOutcome (s : State) : DecodeError → Result
  | .missingOpcode => .truncatedProgram s.pc
  | .unsupported op => .badCommand op
  | .shortCount => .truncatedProgram (s.pc + 1)
  | .shortVector => .truncatedProgram (s.pc + 1)
  | .shortInstruction n =>
    if s.exceedsCapacity n.toNat then .capacity n.toNat else .truncatedProgram (s.pc + 2)

/-- Store a table word, zeros after it, at the place the next step fetches from, with the prologue done and the playback
running (log 21). -/
def State.placeWord (s : State) (nbits w : Nat) : State :=
  let t := if s.prologueDone then s else s.prologue
  let bytes := tableWordBytes t.cfg nbits w
  { t with
    prog := t.prog.writeBytes t.pc bytes, progLen := max t.progLen (t.pc + bytes.length), status := .running }

end Sys2Proof.Machine
end

