-- ==== Sys2Proof/Machine/Step.lean ====
section
/-! DEFINITION. One step: the prologue, or one record of the program (41_opcodes.md R130, R131). -/

namespace Sys2Proof.Machine

/-- What a running playback does next: the start of the playback, one record, or the end where the bytes at `pc` are no record. -/
def State.act (s : State) : StepOutcome :=
  if s.prologueDone then
    match s.fetch with
    | .record i _ => exec i s
    | .failed e => .next (s.raise (s.decodeOutcome e))
  else .next s.start

/-- One step. A playback that is done performs nothing further, so it stays as it is (70_reset_and_hazards.md R238; log 11); a
refused one has no meaning (60_exceptions.md R206; log 12). A running one is stuck where a pin operation of the step never returns
(R235; log 29). -/
def step (s : State) : Host.Outcome State Fault Refusal :=
  match s.status with
  | .done _ => .next s
  | .refused r => .refused (.playbackRefused r)
  | .running => awaitPins s s.act

/-- The state whose very next step fetches and runs the table word `w` (log 21). -/
def State.withFetchWord (s : State) (nbits w : Nat) : State := s.placeWord nbits w

end Sys2Proof.Machine
end

