-- ==== Sys2Proof/Machine/Observer.lean ====
section
/-! DEFINITION. What can be read off a trace: the edge view (10_state.md R34), the target's TAP state (R35, R36) and which bits the
target takes in and gives out (R37). No rule of the block reads any of them. -/

namespace Sys2Proof.Machine

/-- What an observer of the lines has seen so far. -/
structure Observer where
  /-- the line levels now -/
  lines : Lines
  /-- (TMS, TDI) at each TCK rising edge, oldest first -/
  edges : List (Level × Level)
  /-- each TDO sample with the number of rising edges before it, oldest first -/
  samples : List (Nat × Bool)
  /-- where the target's TAP can be: one entry per state it may have started in (R35: unknown at start) -/
  taps : List TapState
  /-- the TDI level at each rising edge with the target in Shift-IR or Shift-DR: the bits it took in, oldest first (R37) -/
  shifted : List Level
  /-- each TDO sample taken in a Shift state with the number of the target's output bit it reads, counting from 0 at each move from
  Capture to Shift, oldest first (R37) -/
  outputs : List (Nat × Bool)
  /-- the number of the output bit the target presents on TDO, none where there is no such bit or it is unknown (R37) -/
  presented : Option Nat
  /-- the number of the output bit the target will present at the next TCK falling edge (R37) -/
  pending : Option Nat
  deriving DecidableEq, Repr

/-- Before the first event: the lines as the host hands them over (70_reset_and_hazards.md R230, R235). -/
def Observer.start : Observer :=
  { lines := State.reset.lines, edges := [], samples := [], taps := TapState.all, shifted := [], outputs := [],
    presented := none, pending := none }

/-- The TAP after a rising edge with a TMS level; a level nobody drove leaves it unknown (DESIGN CHOICE, log 17). -/
def tapsAfterEdge (taps : List TapState) : Level → List TapState
  | .driven b => taps.map (fun t => t.next b)
  | .unknown => TapState.all

/-- The one TAP state left, none where it is unknown. -/
def knownTap : List TapState → Option TapState
  | [] => none
  | t :: ts => if ts.all (fun u => u == t) then some t else none

/-- The target is known to be in a Shift state. -/
def inShift (taps : List TapState) : Bool := knownTap taps == some .shiftIr || knownTap taps == some .shiftDr

/-- The output bit the target presents after the falling edge that follows a rising edge in this state, from the one pending before: the
first after the move from Capture to Shift, the next after each rising edge in Shift, the edge that leaves it too (R37). A pause keeps
the count; from any other state there is none (DESIGN CHOICE: R37 is silent on both; log 17). -/
def TapState.outputAfterEdge (tms : Level) (pending : Option Nat) : TapState → Option Nat
  | .captureDr => if tms = .driven false then some 0 else none
  | .captureIr => if tms = .driven false then some 0 else none
  | .shiftDr => pending.map (fun k => k + 1)
  | .shiftIr => pending.map (fun k => k + 1)
  | .exit1Dr => pending
  | .exit1Ir => pending
  | .pauseDr => pending
  | .pauseIr => pending
  | .exit2Dr => pending
  | .exit2Ir => pending
  | .testLogicReset => none
  | .runTestIdle => none
  | .selectDrScan => none
  | .selectIrScan => none
  | .updateDr => none
  | .updateIr => none

/-- The output bit a sample reads: the one presented, of a target known to be in a Shift state (R37). -/
def Observer.sampledOutput (o : Observer) : Option Nat := if inShift o.taps then o.presented else none

/-- A TCK rising edge: the levels at the edge are recorded, a target in a Shift state takes in TDI, the TAP moves, and the next output
bit is settled (R34, R36, R37). -/
def Observer.edge (o : Observer) : Observer :=
  { o with
    edges := o.edges ++ [(o.lines.tms, o.lines.tdi)]
    taps := tapsAfterEdge o.taps o.lines.tms
    shifted := if inShift o.taps then o.shifted ++ [o.lines.tdi] else o.shifted
    pending := (knownTap o.taps).bind (TapState.outputAfterEdge o.lines.tms o.pending) }

/-- One event. `TCK(1)` is a rising edge where TCK was not already high (R34); `TCK(0)` is the falling edge after which the target
presents the pending output bit (R37). -/
def Observer.see (o : Observer) : PinEvent → Observer
  | .tck true =>
    let p := if o.lines.tck = .driven true then o else o.edge
    { p with lines := { o.lines with tck := .driven true } }
  | .tck false => { o with lines := { o.lines with tck := .driven false }, presented := o.pending }
  | .tms b => { o with lines := { o.lines with tms := .driven b } }
  | .tdi b => { o with lines := { o.lines with tdi := .driven b } }
  | .tdo b =>
    { o with
      samples := o.samples ++ [(o.edges.length, b)]
      outputs := o.outputs ++ (o.sampledOutput.toList.map fun k => (k, b)) }

/-- What a whole trace shows. -/
def observe (trace : List PinEvent) : Observer := trace.foldl Observer.see Observer.start

/-- The target's TAP state after the trace, none while it is unknown (R35). -/
def State.tap (s : State) : Option TapState := knownTap (observe s.trace).taps

end Sys2Proof.Machine
end

