-- ==== Sys2Proof/Safety.lean ====
section
/-! DEFINITION. The terms the statements use: the event lists the rules give for each kernel, written as lists and apart from
the kernels themselves; the bits and bytes a shift samples; and the invariants of a playback. -/

namespace Sys2Proof.Machine

/-! ### Event lists of the rules -/

/-- `pulse()` (00_scope.md R11). -/
def pulseEvents : List PinEvent := [.tck true, .tck false]

/-- clock-FSM(pattern, count): for each bit, least significant first, a TMS write and a pulse (40_kernels.md R100). -/
def fsmEvents (pattern : U32) (count : Nat) : List PinEvent :=
  (List.range count).flatMap fun i => .tms (pattern.getLsbD i) :: pulseEvents

/-- One fixed transition (R110). -/
def transitionEvents (t : Transition) : List PinEvent := fsmEvents t.pattern t.count

/-- idle-clocks(count) (R102). -/
def idleEvents (count : Nat) : List PinEvent := (List.range count).flatMap fun _ => pulseEvents

/-- TMS(1) on the final bit of `n`, nothing on the others (R103). -/
def finalTms (n k : Nat) : List PinEvent := if k + 1 = n then [.tms true] else []

/-- shift-in-only of `n` bits, `bit k` on TDI for pulse `k` (R103). -/
def shiftEvents (n : Nat) (bit : Nat → Bool) : List PinEvent :=
  (List.range n).flatMap fun k => .tdi (bit k) :: (finalTms n k ++ pulseEvents)

/-- shift-in-out of `n` bits: the same, with one sample after each TDI write (R105). -/
def sampleEvents (n : Nat) (bit answer : Nat → Bool) : List PinEvent :=
  (List.range n).flatMap fun k => .tdi (bit k) :: .tdo (answer k) :: (finalTms n k ++ pulseEvents)

/-- A scan: enter the shift state, shift, exit to Run-Test/Idle, idle pulses (R115, R116). -/
def scanEvents (enter exit : Transition) (shift : List PinEvent) (idle : U32) : List PinEvent :=
  transitionEvents enter ++ shift ++ transitionEvents exit ++ idleEvents idle.toNat

/-- The level each line has after these events (10_state.md R33). -/
def linesAfter (l : Lines) (events : List PinEvent) : Lines :=
  events.foldl (fun l e =>
    match e with
    | .tck b => { l with tck := .driven b }
    | .tms b => { l with tms := .driven b }
    | .tdi b => { l with tdi := .driven b }
    | .tdo _ => l) l

/-- A state in which these events have happened on the pins and nothing else has changed (R32, R33). -/
def State.perform (events : List PinEvent) (s : State) : State :=
  { s with lines := linesAfter s.lines events, trace := s.trace ++ events }

/-- A sample of TDO. -/
def PinEvent.isSample : PinEvent → Bool
  | .tdo _ => true
  | .tck _ => false
  | .tms _ => false
  | .tdi _ => false

/-- The bit of a TDI write, none for another event. -/
def PinEvent.tdiBit? : PinEvent → Option Bool
  | .tdi b => some b
  | .tck _ => none
  | .tms _ => none
  | .tdo _ => none

/-! ### What a compare record samples -/

/-- Byte `i` of `n` samples: sample 8i+j is bit j, and a bit past the last sample is 0 (R105, D10). -/
def sampledByte (n : Nat) (answer : Nat → Bool) (i : Nat) : Byte :=
  BitVec.ofFnLE fun j : Fin 8 => decide (8 * i + j < n) && answer (8 * i + j)

/-- The target's answers in attempt `a`, counting from 0, of a compare of `n` bits that starts in `s`. -/
def State.attemptAnswer (s : State) (n a k : Nat) : Bool := s.draw (a * n + k)

/-- Attempt `a` of a compare record matches: sampled and expected bytes agree under the mask (42_compare_retry.md R174). -/
def State.attemptMatches (s : State) (pairs : List (Byte × Byte)) (a : Nat) : Prop :=
  ∀ i (h : i < pairs.length),
    sampledByte s.shiftLength.toNat (s.attemptAnswer s.shiftLength.toNat a) i &&& s.inMask.read i
      = pairs[i].2 &&& s.inMask.read i

/-- The events of attempt `a` (R172). -/
def State.attemptEvents (s : State) (pairs : List (Byte × Byte)) (a : Nat) : List PinEvent :=
  scanEvents s.cfg.seq.enterSdr s.cfg.seq.exitIdle
    (sampleEvents s.shiftLength.toNat (bitAt (pairs.map Prod.fst)) (s.attemptAnswer s.shiftLength.toNat a))
    s.idleClocks

/-- The events of the first `n` attempts. -/
def State.attemptsEvents (s : State) (pairs : List (Byte × Byte)) (n : Nat) : List PinEvent :=
  (List.range n).flatMap (s.attemptEvents pairs)

/-! ### Safe playbacks -/

/-- At a record boundary: the playback runs and the prologue is done, so the next step reads a record. -/
def State.Ready (s : State) : Prop := s.status = .running ∧ s.prologueDone = true

/-- The lines hold the last levels written, as the trace shows them (10_state.md R33). -/
def State.LinesShown (s : State) : Prop := (observe s.trace).lines = s.lines

/-- A buffer in canonical form with nothing beyond its capacity (20_memory.md R54). -/
def Memory.Fits (m : Memory) (n : Nat) : Prop := m.wf ∧ m.within n

/-- The invariant of a playback: every byte store canonical and in range (R50, R54), the cursor inside the program (R21), the
shift length inside a buffer (R22), the lines as the trace shows them with TCK at rest low (R33, R204), and nothing done
before the prologue (R130, R231). -/
structure State.Inv (s : State) : Prop where
  prog_fits : s.prog.Fits s.progLen
  inMask_fits : s.inMask.Fits s.cfg.bufCap
  inData_fits : s.inData.Fits s.cfg.bufCap
  outData_fits : s.outData.Fits s.cfg.bufCap
  expData_fits : s.expData.Fits s.cfg.bufCap
  pc_le : s.pc ≤ s.progLen
  shiftLength_le : s.shiftLength.toNat ≤ s.capacityBits
  lines_shown : s.LinesShown
  tck_low : s.lines.tck = .driven false
  fresh : s.prologueDone = false → s.pc = 0 ∧ s.trace = []

/-- At a record boundary the target is in Run-Test/Idle with TMS at 0 (70_reset_and_hazards.md R233). -/
def State.AtIdle (s : State) : Prop := s.tap = some .runTestIdle ∧ s.lines.tms = .driven false

/-- The lines are shown by the trace, TCK rests low, and once the prologue is done the target rests in Run-Test/Idle. -/
def State.RestsIdle (s : State) : Prop :=
  s.LinesShown ∧ s.lines.tck = .driven false ∧ (s.prologueDone = true → s.AtIdle)

/-- The playback has ended (70_reset_and_hazards.md R238). -/
def State.Ended (s : State) : Prop := s.status ≠ .running

end Sys2Proof.Machine
end

