-- ==== Sys2Proof/Certificates/Slice0/Obligations.lean ====
section
/-! DEFINITION. The statements for the provers, in the order of spec/: encoding, start, declarations, kernels, shifts, compare,
outcomes, invariants, whole-machine rules. A statement holds for every configuration it does not restrict: `OPC`, `SEQ`, `BUF_CAP`,
`ZERO_SHIFT` are fields of the state's `cfg`. A premise `shiftLength ≤ 8·BUF_CAP` rules out states no run reaches; it is part of the
invariant `State.Inv`, which is stated on its own below. Where a docstring names a decision Dn of spec/92, that clause is the
spec's own choice and the statement is derived. -/

open Sys2Proof Sys2Proof.Machine

/-! ### Encoding -/

/-- A word of each format, written out from the tables of R72 and R73 (default `OPC`, log 4), decodes to its record. -/
def Obligations.WordsOfTheEncodingTablesDecode : Prop :=
  decode defaultOpc 0 [0x00] = .record .complete [] ∧
  decode defaultOpc 12 [0x01, 0xFF, 0x0F] = .record (.declareTdoMask [0xFF, 0x0F]) [] ∧
  decode defaultOpc 0 [0x02, 0x05, 0x13] = .record (.shiftInstruction 5 [0x13]) [] ∧
  decode defaultOpc 12 [0x03, 0x34, 0xF2, 0x00] = .record (.shiftData [0x34, 0xF2]) [0x00] ∧
  decode defaultOpc 0 [0x04, 0x00, 0x00, 0x01, 0x00] = .record (.declareRunTest 256) [] ∧
  decode defaultOpc 0 [0x08, 0x00, 0x00, 0x00, 0x08, 0x03] = .record (.declareShiftSize 8) [0x03] ∧
  decode defaultOpc 16 [0x09, 0x00, 0x93, 0x01, 0x60] = .record (.shiftDataCompare [(0x00, 0x93), (0x01, 0x60)]) [] ∧
  decode defaultOpc 0 [0x07, 0x00] = .failed (.unsupported 0x07)

/-- R70, R72, R73, R75: a well-formed record decodes from its own bytes, whatever follows them, for every table of distinct
opcode values. -/
def Obligations.EncodedRecordDecodesToItself : Prop :=
  ∀ (opc : OpcTable) (L : U32) (i : Instr) (rest : List Byte), opcDistinct opc = true → i.WellFormed L = true →
    decode opc L (encode opc i ++ rest) = .record i rest

/-- R72, R75, R76: whatever decodes to a record is that record's bytes and the rest; the record is well formed, and the decoder
took exactly the length of R76. -/
def Obligations.DecodedBytesAreTheEncodedRecord : Prop :=
  ∀ (opc : OpcTable) (L : U32) (bs rest : List Byte) (i : Instr), decode opc L bs = .record i rest →
    i.WellFormed L = true ∧ encode opc i ++ rest = bs ∧ bs.length = recordLength L i + rest.length

/-- R56: both 4-byte counts are big-endian, the first byte read the most significant, whatever else the machine holds. -/
def Obligations.CountsAreBigEndian : Prop :=
  ∀ (opc : OpcTable) (L : U32) (b0 b1 b2 b3 : Byte) (rest : List Byte), opcDistinct opc = true →
    ∃ c : U32, c.toNat = b0.toNat * 2 ^ 24 + b1.toNat * 2 ^ 16 + b2.toNat * 2 ^ 8 + b3.toNat ∧
      decode opc L (opc.declareRunTest :: b0 :: b1 :: b2 :: b3 :: rest) = .record (.declareRunTest c) rest ∧
      decode opc L (opc.declareShiftSize :: b0 :: b1 :: b2 :: b3 :: rest) = .record (.declareShiftSize c) rest

/-! ### Start and stepping -/

/-- A step runs the decoded record (R131). Around it: the prologue before the first record (R130), and the wait for the pin operations of
the step, which changes nothing where every one returns or none is performed (R235; the stuck block has a statement of its own). That a
step of a done playback answers the same state (DEDUCED from R238, log 11) and that a step of a refused one is the refusal
`playbackRefused` (DEDUCED from R206, log 12) are the model's choice. -/
def Obligations.StepRunsTheDecodedRecord : Prop :=
  (∀ (s : State) (i : Instr) (rest : List Byte), s.Ready → s.fetch = .record i rest →
    step s = awaitPins s (exec i s)) ∧
  (∀ (s : State) (i : Instr) (rest : List Byte), s.Ready → opcDistinct s.cfg.opc = true →
    i.WellFormed s.shiftLength = true → s.programFrom s.pc = encode s.cfg.opc i ++ rest →
    step s = awaitPins s (exec i s)) ∧
  (∀ s : State, s.status = .running → s.prologueDone = false → step s = awaitPins s (.next s.start)) ∧
  (∀ (s : State) (o : StepOutcome), s.hangsAt = none → awaitPins s o = o) ∧
  (∀ s t : State, t.trace = s.trace → awaitPins s (.next t) = .next t) ∧
  (∀ (s : State) (r : Result), s.status = .done r → step s = .next s) ∧
  (∀ (s : State) (r : RefuseReason), s.status = .refused r → step s = .refused (.playbackRefused r))

/-- R230 (the levels at start are the spec's D11, the buffers' D14): what a playback starts from, whatever the configuration,
the program and the target's answers to come. -/
def Obligations.PlaybackStartsFromTheResetValues : Prop :=
  ∀ (cfg : Config) (program : List Byte) (answers : List Bool),
    let s := State.playback cfg program answers
    s.pc = 0 ∧ s.shiftLength = 0 ∧ s.idleClocks = 0 ∧
    (∀ a, s.inMask.read a = 0 ∧ s.inData.read a = 0 ∧ s.outData.read a = 0 ∧ s.expData.read a = 0) ∧
    s.lines = { tck := .driven false, tms := .unknown, tdi := .unknown } ∧ s.trace = [] ∧ s.status = .running ∧
    s.tap = none ∧ s.prologueDone = false ∧ s.cfg = cfg ∧ s.progLen = program.length ∧
    (∀ a, a < program.length → s.prog.read a = program.getD a 0) ∧ s.programFrom 0 = program

/-- R130: the prologue, once, before the first record, whatever the program, with the wait for its pin operations (R235;
that the stuck block is a fault is the model's choice, log 29); with the default `SEQ` (the spec's D4) 6 pulses and 18 events, ending in
Run-Test/Idle with TMS at 0. -/
def Obligations.PrologueRunsOnceBeforeTheFirstRecord : Prop :=
  (∀ s : State, s.status = .running → s.prologueDone = false → configFault s.cfg = none →
    step s = awaitPins s (.next { s.perform (transitionEvents s.cfg.seq.resetIdle) with prologueDone := true })) ∧
  (∀ s t : State, s.prologueDone = true → step s = .next t → t.prologueDone = true) ∧
  (∀ s t : State, s.status = .running → s.prologueDone = false → configFault s.cfg = none → s.cfg.seq = defaultSeq →
    s.LinesShown → s.lines.tck = .driven false → step s = .next t →
    (∃ es, t.trace = s.trace ++ es ∧ es.length = 18 ∧ es.count (.tck true) = 6) ∧
    t.tap = some .runTestIdle ∧ t.lines.tms = .driven false)

/-- R231, R232: the first step of every playback with the default `SEQ` leaves exactly these 18 events, these lines, and the target
in Run-Test/Idle. -/
def Obligations.DefaultPrologueTrace : Prop :=
  ∀ (cfg : Config) (program : List Byte) (answers : List Bool), cfg.seq = defaultSeq → configFault cfg = none →
    ∃ t, step (State.playback cfg program answers) = .next t ∧
      t.trace = (List.replicate 5 [PinEvent.tms true, .tck true, .tck false]).flatten
        ++ [.tms false, .tck true, .tck false] ∧
      t.lines = { tck := .driven false, tms := .driven false, tdi := .unknown } ∧ t.tap = some .runTestIdle ∧
      t.pc = 0 ∧ t.status = .running

/-- R206 (`BadConfig`; D3, D4, D5): a bad configuration is refused before any pin event, and the playback then has no meaning,
as the refusal `playbackRefused`, which is the model's choice (DEDUCED from R206, log 12);
the configurations that are not bad are those that R73, R100, R112 and D5 allow. The first fault named where several hold is the
model's choice (log 9). -/
def Obligations.BadConfigurationIsRefusedBeforePlayback : Prop :=
  (∀ (s : State) (f : ConfigFault), s.status = .running → s.prologueDone = false → configFault s.cfg = some f →
    step s = .next { s with status := .refused (.badConfig f) } ∧
    step { s with status := .refused (.badConfig f) } = .refused (.playbackRefused (.badConfig f))) ∧
  (∀ c : Config, configFault c = none ↔
    (opcValues c.opc).Nodup ∧
    (c.seq.resetIdle.count ≤ 32 ∧ c.seq.enterSir.count ≤ 32 ∧ c.seq.enterSdr.count ≤ 32 ∧ c.seq.exitIdle.count ≤ 32) ∧
    (∀ t : TapState, t.after (transitionLevels c.seq.resetIdle) = .runTestIdle) ∧
    TapState.runTestIdle.after (transitionLevels c.seq.enterSir) = .shiftIr ∧
    TapState.runTestIdle.after (transitionLevels c.seq.enterSdr) = .shiftDr ∧
    TapState.exit1Ir.after (transitionLevels c.seq.exitIdle) = .runTestIdle ∧
    TapState.exit1Dr.after (transitionLevels c.seq.exitIdle) = .runTestIdle ∧
    (∀ t ∈ [c.seq.resetIdle, c.seq.enterSir, c.seq.enterSdr, c.seq.exitIdle],
      ∃ n, t.count = n + 1 ∧ t.pattern.getLsbD n = false) ∧
    1 ≤ c.bufCap)

/-! ### Declarations, the sentinel, unsupported bytes -/

/-- R136: declare-run-test writes `idleClocks` and the cursor and nothing else, for every count; read from the program it takes
four big-endian bytes, and fewer than four truncate the program; every later scan ends with that many idle pulses, and a count of 0
turns them off. Its default opcode 0x04 is the spec's own choice from general knowledge (D3; PRESUMED, log 4). -/
def Obligations.RunTestDeclarationSetsIdleClocks : Prop :=
  (∀ (s : State) (c : U32), exec (.declareRunTest c) s = .next { s with idleClocks := c, pc := s.pc + 5 }) ∧
  (∀ s : State, s.Ready → opcDistinct s.cfg.opc = true → s.prog.read s.pc = s.cfg.opc.declareRunTest →
    (s.pc + 5 ≤ s.progLen → step s = .next { s with
      idleClocks := be32 (s.prog.read (s.pc + 1)) (s.prog.read (s.pc + 2)) (s.prog.read (s.pc + 3)) (s.prog.read (s.pc + 4)),
      pc := s.pc + 5 }) ∧
    (s.pc < s.progLen → s.progLen < s.pc + 5 →
      step s = .next { s with status := .done (.truncatedProgram (s.pc + 1)) })) ∧
  (∀ (n : Nat) (s : State),
    (∃ u, scanIr n s = pulses s.idleClocks.toNat u) ∧ (∃ u, scanDrOnly n s = pulses s.idleClocks.toNat u) ∧
    (∃ u, scanDrSample n s = pulses s.idleClocks.toNat u)) ∧
  (∀ s : State, s.idleClocks = 0 → s.idlePulses = s) ∧
  defaultOpc.declareRunTest = 0x04

/-- R142 (D5, D6): declare-shift-size writes `shiftLength` and the cursor and nothing else up to 8·`BUF_CAP`, raises Capacity
above it and then writes nothing; read from the program it takes four big-endian bytes, and fewer truncate the program. -/
def Obligations.ShiftSizeDeclarationSetsShiftLengthOrRaisesCapacity : Prop :=
  (∀ (s : State) (c : U32), c.toNat ≤ 8 * s.cfg.bufCap →
    exec (.declareShiftSize c) s = .next { s with shiftLength := c, pc := s.pc + 5 }) ∧
  (∀ (s : State) (c : U32), 8 * s.cfg.bufCap < c.toNat →
    exec (.declareShiftSize c) s = .next { s with status := .done (.capacity c.toNat) }) ∧
  (∀ s : State, s.Ready → opcDistinct s.cfg.opc = true → s.prog.read s.pc = s.cfg.opc.declareShiftSize →
    (s.pc + 5 ≤ s.progLen → step s = exec (.declareShiftSize
      (be32 (s.prog.read (s.pc + 1)) (s.prog.read (s.pc + 2)) (s.prog.read (s.pc + 3)) (s.prog.read (s.pc + 4)))) s) ∧
    (s.pc < s.progLen → s.progLen < s.pc + 5 →
      step s = .next { s with status := .done (.truncatedProgram (s.pc + 1)) }))

/-- R132 (D8, D14): declare-TDO-mask writes `inMask[0 .. m−1]` and the cursor; every other mask byte and every other field is as
before, and no pin operation happens. Read from the program it takes the next m bytes. -/
def Obligations.TdoMaskDeclarationWritesTheMaskBytes : Prop :=
  (∀ (s : State) (mask : List Byte), (Instr.declareTdoMask mask).WellFormed s.shiftLength = true →
    s.shiftLength.toNat ≤ 8 * s.cfg.bufCap →
    ∃ t, exec (.declareTdoMask mask) s = .next t ∧
      t = { s with inMask := t.inMask, pc := s.pc + 1 + ceil8 s.shiftLength.toNat } ∧
      ∀ a, t.inMask.read a = if a < ceil8 s.shiftLength.toNat then mask.getD a 0 else s.inMask.read a) ∧
  (∀ s : State, s.Ready → opcDistinct s.cfg.opc = true → s.prog.read s.pc = s.cfg.opc.declareTdoMask →
    s.pc + 1 + ceil8 s.shiftLength.toNat ≤ s.progLen →
    step s = exec (.declareTdoMask (s.prog.readBytes (s.pc + 1) (ceil8 s.shiftLength.toNat))) s)

/-- R158: the sentinel moves the cursor past itself and ends the playback with success; nothing else changes, no pin operation
happens, whatever bytes follow; a program that begins with it performs the prologue only. Its default opcode 0x00 is the spec's own choice from
general knowledge (D3; PRESUMED, log 4). -/
def Obligations.SentinelEndsThePlaybackWithSuccess : Prop :=
  (∀ s : State, exec .complete s = .next { s with pc := s.pc + 1, status := .done .success }) ∧
  (∀ s : State, s.Ready → opcDistinct s.cfg.opc = true → s.pc < s.progLen → s.prog.read s.pc = s.cfg.opc.complete →
    step s = .next { s with pc := s.pc + 1, status := .done .success }) ∧
  (∀ (cfg : Config) (rest : List Byte) (answers : List Bool), configFault cfg = none →
    ∃ t, Host.Core.run core 2 (State.playback cfg (cfg.opc.complete :: rest) answers) = .next t ∧
      t.status = .done .success ∧ t.pc = 1 ∧ t.trace = transitionEvents cfg.seq.resetIdle) ∧
  defaultOpc.complete = 0x00

/-- R160: an opcode byte that is none of the seven ends the playback with BadCommand and that byte; the cursor stays at it, no pin
operation happens; at offset 0 the trace is exactly the prologue's. -/
def Obligations.UnsupportedOpcodeEndsThePlayback : Prop :=
  (∀ s : State, s.Ready → s.pc < s.progLen → s.prog.read s.pc ∉ opcValues s.cfg.opc →
    step s = .next { s with status := .done (.badCommand (s.prog.read s.pc)) }) ∧
  (∀ (cfg : Config) (op : Byte) (rest : List Byte) (answers : List Bool), configFault cfg = none →
    op ∉ opcValues cfg.opc →
    ∃ t, Host.Core.run core 2 (State.playback cfg (op :: rest) answers) = .next t ∧
      t.status = .done (.badCommand op) ∧ t.pc = 0 ∧ t.trace = transitionEvents cfg.seq.resetIdle)

/-! ### Kernels -/

/-- R100: clock-FSM writes TMS with pattern bit i and pulses, for i from 0; nothing else changes; a count of 0 performs nothing; a
`SEQ` with a count above 32 is refused before the playback (the spec's D4); that the count is the fault named, where paths or `BUF_CAP`
are bad too, is the model's choice (DESIGN CHOICE, log 9). -/
def Obligations.ClockFsmDrivesThePatternBits : Prop :=
  (∀ (p : U32) (n : Nat) (s : State),
    let t := clockFsm p n s
    t = { s with lines := t.lines, trace := t.trace } ∧ t.lines.tdi = s.lines.tdi ∧
    (∃ es, t.trace = s.trace ++ es ∧ es.length = 3 * n ∧ ∀ i, i < n →
      es[3 * i]? = some (.tms (p.getLsbD i)) ∧ es[3 * i + 1]? = some (.tck true) ∧ es[3 * i + 2]? = some (.tck false)) ∧
    (0 < n → t.lines.tms = .driven (p.getLsbD (n - 1)) ∧ t.lines.tck = .driven false)) ∧
  (∀ (p : U32) (s : State), clockFsm p 0 s = s) ∧
  (∀ s : State, s.status = .running → s.prologueDone = false → opcDistinct s.cfg.opc = true →
    (∃ t ∈ [s.cfg.seq.resetIdle, s.cfg.seq.enterSir, s.cfg.seq.enterSdr, s.cfg.seq.exitIdle], 32 < t.count) →
    step s = .next { s with status := .refused (.badConfig .seqCountAboveMax) }) ∧
  (∀ s : State, (clockFsm 0x1F 6 s).trace = s.trace ++
    ((List.replicate 5 [PinEvent.tms true, .tck true, .tck false]).flatten ++ [.tms false, .tck true, .tck false]))

/-- R102: idle-clocks pulses TCK `count` times and touches neither TMS nor TDI; 0 performs nothing; the callers' test for 0 has the
same effect. -/
def Obligations.IdleClocksPulseTckOnly : Prop :=
  (∀ (n : Nat) (s : State), pulses n s = { s with
    lines := { s.lines with tck := if n = 0 then s.lines.tck else .driven false },
    trace := s.trace ++ (List.replicate n [PinEvent.tck true, .tck false]).flatten }) ∧
  (∀ s : State, s.idlePulses = pulses s.idleClocks.toNat s)

/-- R103 (D12: where the TMS write of the final bit stands, and none on the others; R164, D9: zero bits are refused under `Refuse`):
shift-in-only writes TDI with bit k and pulses, for k from 0, with TMS(1) before the final pulse only; it samples nothing
and writes no buffer; bits past the count are not read; 0 bits perform nothing, and under `Refuse` are never passed. -/
def Obligations.ShiftInOnlyDrivesTheDataBits : Prop :=
  (∀ (n : Nat) (buf : Memory) (s : State),
    let t := shiftInOnly n buf s
    t = { s with lines := t.lines, trace := t.trace } ∧
    (n = 0 → t = s) ∧
    (0 < n → t.lines = { tck := .driven false, tms := .driven true, tdi := .driven (buf.bit (n - 1)) } ∧
      ∃ es, t.trace = s.trace ++ es ∧ es.length = 3 * n + 1 ∧
        (∀ k, k < n → es[3 * k]? = some (.tdi (buf.bit k))) ∧
        (∀ k, k + 1 < n → es[3 * k + 1]? = some (.tck true) ∧ es[3 * k + 2]? = some (.tck false)) ∧
        es[3 * n - 2]? = some (.tms true) ∧ es[3 * n - 1]? = some (.tck true) ∧ es[3 * n]? = some (.tck false))) ∧
  (∀ (n : Nat) (buf buf' : Memory) (s : State), (∀ k, k < n → buf.bit k = buf'.bit k) →
    shiftInOnly n buf s = shiftInOnly n buf' s) ∧
  (∀ (s : State) (data : List Byte), s.cfg.zeroShift = .refuse →
    exec (.shiftInstruction 0 data) s
      = .next { s with status := .refused (.zeroLengthShift s.cfg.opc.shiftInstruction s.pc) }) ∧
  (∀ (s : State) (data : List Byte), s.cfg.zeroShift = .refuse → s.shiftLength = 0 →
    exec (.shiftData data) s = .next { s with status := .refused (.zeroLengthShift s.cfg.opc.shiftData s.pc) }) ∧
  (∀ s : State, (shiftInOnly 8 [(0, 0xA5)] s).trace = s.trace ++
    [.tdi true, .tck true, .tck false, .tdi false, .tck true, .tck false, .tdi true, .tck true, .tck false,
     .tdi false, .tck true, .tck false, .tdi false, .tck true, .tck false, .tdi true, .tck true, .tck false,
     .tdi false, .tck true, .tck false, .tdi true, .tms true, .tck true, .tck false])

/-- R105 (D10: unused bits of the last byte are 0; D12: the sample stands before the final TMS write): shift-in-out performs the
events of shift-in-only with one sample after each TDI write, takes one answer a bit, and fills the sample buffer. -/
def Obligations.ShiftInOutSamplesEachBit : Prop :=
  ∀ (n : Nat) (buf : Memory) (s : State),
    let t := shiftInOut n buf s
    t = { s with outData := t.outData, lines := t.lines, trace := t.trace,
                 tdoNext := s.tdoNext.drop n, tdoDraws := s.tdoDraws + n } ∧
    (∀ a, ceil8 n ≤ a → t.outData.read a = s.outData.read a) ∧
    (∀ a j, a < ceil8 n → j < 8 →
      (t.outData.read a).getLsbD j = if 8 * a + j < n then s.draw (8 * a + j) else false) ∧
    t.lines = (shiftInOnly n buf s).lines ∧
    ∃ es, t.trace = s.trace ++ es ∧
      s.trace ++ es.filter (fun e => !e.isSample) = (shiftInOnly n buf s).trace ∧
      (∀ k, k < n → es[4 * k]? = some (.tdi (buf.bit k)) ∧ es[4 * k + 1]? = some (.tdo (s.draw k))) ∧
      es.length = if n = 0 then 0 else 4 * n + 1

/-! ### Shifts -/

/-- R146 (D8, D9, D28), R115: shift-instruction loads its bytes, moves the cursor, and performs the IR scan with bit k of the operand on
TDI for pulse k; nothing else changes. Above 8·`BUF_CAP` bits it raises Capacity and does nothing. A step that runs it waits for its pin
operations (R235). -/
def Obligations.ShiftInstructionScansTheInstructionRegister : Prop :=
  (∀ (s : State) (n : BitVec 8) (data : List Byte), (Instr.shiftInstruction n data).WellFormed s.shiftLength = true →
    n.toNat ≤ 8 * s.cfg.bufCap → (n ≠ 0 ∨ s.cfg.zeroShift = .literal) →
    ∃ t, exec (.shiftInstruction n data) s = .next t ∧
      t = { s.perform (scanEvents s.cfg.seq.enterSir s.cfg.seq.exitIdle (shiftEvents n.toNat (bitAt data)) s.idleClocks) with
            inData := t.inData, pc := s.pc + 2 + ceil8 n.toNat } ∧
      ∀ a, t.inData.read a = if a < ceil8 n.toNat then data.getD a 0 else s.inData.read a) ∧
  (∀ (s : State) (n : BitVec 8) (data : List Byte), 8 * s.cfg.bufCap < n.toNat →
    exec (.shiftInstruction n data) s = .next { s with status := .done (.capacity n.toNat) }) ∧
  (∀ s : State, s.Ready → opcDistinct s.cfg.opc = true → s.prog.read s.pc = s.cfg.opc.shiftInstruction →
    s.pc + 2 + ceil8 (s.prog.read (s.pc + 1)).toNat ≤ s.progLen →
    step s = awaitPins s (exec (.shiftInstruction (s.prog.read (s.pc + 1))
      (s.prog.readBytes (s.pc + 2) (ceil8 (s.prog.read (s.pc + 1)).toNat))) s))

/-- R152 (D8, D9), R116: shift-data loads its bytes, moves the cursor, and performs the DR scan without samples; nothing else
changes. A step that runs it waits for its pin operations (R235). -/
def Obligations.ShiftDataScansTheDataRegister : Prop :=
  (∀ (s : State) (data : List Byte), (Instr.shiftData data).WellFormed s.shiftLength = true →
    s.shiftLength.toNat ≤ 8 * s.cfg.bufCap → (s.shiftLength ≠ 0 ∨ s.cfg.zeroShift = .literal) →
    ∃ t, exec (.shiftData data) s = .next t ∧
      t = { s.perform (scanEvents s.cfg.seq.enterSdr s.cfg.seq.exitIdle
              (shiftEvents s.shiftLength.toNat (bitAt data)) s.idleClocks) with
            inData := t.inData, pc := s.pc + 1 + ceil8 s.shiftLength.toNat } ∧
      ∀ a, t.inData.read a = if a < ceil8 s.shiftLength.toNat then data.getD a 0 else s.inData.read a) ∧
  (∀ s : State, s.Ready → opcDistinct s.cfg.opc = true → s.prog.read s.pc = s.cfg.opc.shiftData →
    s.pc + 1 + ceil8 s.shiftLength.toNat ≤ s.progLen →
    step s = awaitPins s (exec (.shiftData (s.prog.readBytes (s.pc + 1) (ceil8 s.shiftLength.toNat))) s))

/-- R57: byte 0 first and bit 0 first within a byte, for the TDI bits of a data shift, of an instruction shift and of each of the n
attempts a compare makes, and for where sample k is stored. -/
def Obligations.ShiftBitsGoLeastSignificantFirst : Prop :=
  (∀ (s t : State) (data : List Byte), (Instr.shiftData data).WellFormed s.shiftLength = true → s.shiftLength ≠ 0 →
    exec (.shiftData data) s = .next t →
    ∃ es, t.trace = s.trace ++ es ∧ es.filterMap PinEvent.tdiBit? =
      (List.range s.shiftLength.toNat).map fun k => (data.getD (k / 8) 0).getLsbD (k % 8)) ∧
  (∀ (s t : State) (n : BitVec 8) (data : List Byte), (Instr.shiftInstruction n data).WellFormed s.shiftLength = true →
    n ≠ 0 → n.toNat ≤ 8 * s.cfg.bufCap → exec (.shiftInstruction n data) s = .next t →
    ∃ es, t.trace = s.trace ++ es ∧ es.filterMap PinEvent.tdiBit? =
      (List.range n.toNat).map fun k => (data.getD (k / 8) 0).getLsbD (k % 8)) ∧
  (∀ (s t : State) (pairs : List (Byte × Byte)), (Instr.shiftDataCompare pairs).WellFormed s.shiftLength = true →
    s.shiftLength ≠ 0 → exec (.shiftDataCompare pairs) s = .next t →
    ∃ es n, t.trace = s.trace ++ es ∧ 1 ≤ n ∧ n ≤ 32 ∧ t.tdoDraws = s.tdoDraws + n * s.shiftLength.toNat ∧
      es.filterMap PinEvent.tdiBit? = (List.range n).flatMap fun _ =>
        (List.range s.shiftLength.toNat).map fun k => ((pairs.map Prod.fst).getD (k / 8) 0).getLsbD (k % 8)) ∧
  (∀ (n : Nat) (buf : Memory) (s : State),
    (∃ es, (shiftInOut n buf s).trace = s.trace ++ es ∧
      es.filterMap PinEvent.tdiBit? = (List.range n).map fun k => (buf.read (k / 8)).getLsbD (k % 8)) ∧
    ∀ k, k < n → ((shiftInOut n buf s).outData.read (k / 8)).getLsbD (k % 8) = s.draw k)

/-- R115, R116, R176: with the default `SEQ` an IR scan of n bits adds 3n + 19 + 2·`idleClocks` events, a DR scan 3n + 16, and a DR
scan with samples 4n + 16. -/
def Obligations.ScanEventCounts : Prop :=
  ∀ (n : Nat) (s : State), s.cfg.seq = defaultSeq → 0 < n →
    (scanIr n s).trace.length = s.trace.length + (3 * n + 19 + 2 * s.idleClocks.toNat) ∧
    (scanDrOnly n s).trace.length = s.trace.length + (3 * n + 16 + 2 * s.idleClocks.toNat) ∧
    (scanDrSample n s).trace.length = s.trace.length + (4 * n + 16 + 2 * s.idleClocks.toNat) ∧
    (scanIr n s).trace.count (.tck true) = s.trace.count (.tck true) + (4 + n + 2 + s.idleClocks.toNat) ∧
    (scanDrOnly n s).trace.count (.tck true) = s.trace.count (.tck true) + (3 + n + 2 + s.idleClocks.toNat) ∧
    (scanDrSample n s).trace.count (.tck true) = s.trace.count (.tck true) + (3 + n + 2 + s.idleClocks.toNat)

/-- R164 (`ZERO_SHIFT = Literal`, D9): a shift of zero bits still performs the entry, the exit and the idle pulses and writes no
TDI; the compare over no bytes matches at once; with the default `SEQ` a target at Run-Test/Idle ends in Pause-IR or Pause-DR. -/
def Obligations.LiteralZeroLengthShiftPauses : Prop :=
  ∀ s : State, s.cfg.zeroShift = .literal →
    (∃ t, exec (.shiftInstruction 0 []) s = .next t ∧
      t = { s.perform (transitionEvents s.cfg.seq.enterSir ++ transitionEvents s.cfg.seq.exitIdle
              ++ idleEvents s.idleClocks.toNat) with pc := s.pc + 2 } ∧
      (s.cfg.seq = defaultSeq → s.LinesShown → s.lines.tck = .driven false → s.tap = some .runTestIdle →
        t.tap = some .pauseIr)) ∧
    (s.shiftLength = 0 → ∃ t, exec (.shiftData []) s = .next t ∧
      t = { s.perform (transitionEvents s.cfg.seq.enterSdr ++ transitionEvents s.cfg.seq.exitIdle
              ++ idleEvents s.idleClocks.toNat) with pc := s.pc + 1 } ∧
      exec (.shiftDataCompare []) s = .next t ∧
      (s.cfg.seq = defaultSeq → s.LinesShown → s.lines.tck = .driven false → s.tap = some .runTestIdle →
        t.tap = some .pauseDr))

/-! ### Compare with retry -/

/-- R170, R172, R173, R176, R177 (D8, D9, D10, D16): a compare record stops at the first attempt whose samples match, with exactly
the events, the answers and the samples of the attempts made; when none of 32 matches it raises Mismatch with the last samples, the
mask and the expected bytes after exactly 32 attempts. Nothing else changes. -/
def Obligations.CompareStopsAtTheFirstMatchOrAfter32Attempts : Prop :=
  ∀ (s : State) (pairs : List (Byte × Byte)), (Instr.shiftDataCompare pairs).WellFormed s.shiftLength = true →
    s.shiftLength.toNat ≤ 8 * s.cfg.bufCap → (s.shiftLength ≠ 0 ∨ s.cfg.zeroShift = .literal) →
    ∃ t, exec (.shiftDataCompare pairs) s = .next t ∧
      (∀ a, t.inData.read a = if h : a < pairs.length then pairs[a].1 else s.inData.read a) ∧
      (∀ a, t.expData.read a = if h : a < pairs.length then pairs[a].2 else s.expData.read a) ∧
      (∀ n, n < 32 → s.attemptMatches pairs n → (∀ b, b < n → ¬ s.attemptMatches pairs b) →
        t = { s.perform (s.attemptsEvents pairs (n + 1)) with
              inData := t.inData, expData := t.expData, outData := t.outData,
              tdoNext := s.tdoNext.drop ((n + 1) * s.shiftLength.toNat),
              tdoDraws := s.tdoDraws + (n + 1) * s.shiftLength.toNat,
              pc := s.pc + 1 + 2 * pairs.length } ∧
        ∀ a, t.outData.read a = if a < pairs.length
          then sampledByte s.shiftLength.toNat (s.attemptAnswer s.shiftLength.toNat n) a else s.outData.read a) ∧
      ((∀ b, b < 32 → ¬ s.attemptMatches pairs b) →
        t = { s.perform (s.attemptsEvents pairs 32) with
              inData := t.inData, expData := t.expData, outData := t.outData,
              tdoNext := s.tdoNext.drop (32 * s.shiftLength.toNat),
              tdoDraws := s.tdoDraws + 32 * s.shiftLength.toNat,
              pc := s.pc + 1 + 2 * pairs.length,
              status := .done (.mismatch
                ((List.range pairs.length).map
                  (sampledByte s.shiftLength.toNat (s.attemptAnswer s.shiftLength.toNat 31)))
                ((List.range pairs.length).map s.inMask.read)
                (pairs.map Prod.snd)) } ∧
        ∀ a, t.outData.read a = if a < pairs.length
          then sampledByte s.shiftLength.toNat (s.attemptAnswer s.shiftLength.toNat 31) a else s.outData.read a)

/-- R171: operand byte 2i goes to `inData[i]`, byte 2i+1 to `expData[i]`; the mask is what the last declare-TDO-mask left, zeros at the
start. -/
def Obligations.CompareOperandSplit : Prop :=
  (∀ (s t : State) (v rest : List Byte), s.Ready → opcDistinct s.cfg.opc = true →
    (s.shiftLength ≠ 0 ∨ s.cfg.zeroShift = .literal) →
    s.programFrom s.pc = s.cfg.opc.shiftDataCompare :: (v ++ rest) → v.length = 2 * ceil8 s.shiftLength.toNat →
    step s = .next t → t.inMask = s.inMask ∧ ∀ i, i < ceil8 s.shiftLength.toNat →
      t.inData.read i = v.getD (2 * i) 0 ∧ t.expData.read i = v.getD (2 * i + 1) 0) ∧
  (∀ s t : State, step s = .next t → t.inMask = s.inMask ∨
    ∃ mask rest, s.Ready ∧ s.fetch = .record (.declareTdoMask mask) rest ∧ t.inMask = s.inMask.writeBytes 0 mask) ∧
  (∀ (cfg : Config) (program : List Byte) (answers : List Bool) (a : Nat),
    (State.playback cfg program answers).inMask.read a = 0)

/-- R175: under a mask that is all zeros over the compared bytes, one attempt is made and the record succeeds, whatever is sampled. -/
def Obligations.ZeroMaskMatchesOnTheFirstAttempt : Prop :=
  ∀ (s : State) (pairs : List (Byte × Byte)), (Instr.shiftDataCompare pairs).WellFormed s.shiftLength = true →
    s.shiftLength.toNat ≤ 8 * s.cfg.bufCap → (s.shiftLength ≠ 0 ∨ s.cfg.zeroShift = .literal) →
    (∀ a, a < pairs.length → s.inMask.read a = 0) →
    ∃ t, exec (.shiftDataCompare pairs) s = .next t ∧ t.status = s.status ∧
      t.trace = s.trace ++ s.attemptEvents pairs 0 ∧ t.tdoDraws = s.tdoDraws + s.shiftLength.toNat

/-- R174 (D10): a mask bit set at an unused position of the last byte matches only where the expected bit is 0; where it is 1 no
attempt matches, and the record ends in Mismatch after 32 attempts, whatever is sampled. -/
def Obligations.UnusedBitExpectedOneNeverMatches : Prop :=
  ∀ (s : State) (pairs : List (Byte × Byte)) (i j : Nat),
    (Instr.shiftDataCompare pairs).WellFormed s.shiftLength = true →
    s.shiftLength.toNat ≤ 8 * s.cfg.bufCap → s.shiftLength ≠ 0 → (hi : i < pairs.length) → j < 8 →
    s.shiftLength.toNat ≤ 8 * i + j → (s.inMask.read i).getLsbD j = true → (pairs[i].2).getLsbD j = true →
    ∃ t got mask expected, exec (.shiftDataCompare pairs) s = .next t ∧
      t.status = .done (.mismatch got mask expected) ∧ t.trace = s.trace ++ s.attemptsEvents pairs 32

/-- R203: Mismatch is raised only by a compare record none of whose 32 attempts matched; got is the last attempt's samples; nothing
follows. That the step after it answers the same state is the model's choice (DEDUCED, log 11). -/
def Obligations.MismatchOnlyAfter32FailedAttempts : Prop :=
  ∀ (s t : State) (got mask expected : List Byte), s.Ready → step s = .next t →
    t.status = .done (.mismatch got mask expected) →
    ∃ pairs rest, s.fetch = .record (.shiftDataCompare pairs) rest ∧ (∀ a, a < 32 → ¬ s.attemptMatches pairs a) ∧
      t.trace = s.trace ++ s.attemptsEvents pairs 32 ∧
      got = (List.range pairs.length).map
        (sampledByte s.shiftLength.toNat (s.attemptAnswer s.shiftLength.toNat 31)) ∧
      step t = .next t

/-! ### Outcomes -/

/-- R208 (D17): the checks of a record in their order, each with its outcome; a record that fails one changes nothing but the
status. -/
def Obligations.ChecksRunInTheirFixedOrder : Prop :=
  ∀ s : State, s.Ready → opcDistinct s.cfg.opc = true →
    let op := s.prog.read s.pc
    let n := (s.prog.read (s.pc + 1)).toNat
    let c := be32 (s.prog.read (s.pc + 1)) (s.prog.read (s.pc + 2)) (s.prog.read (s.pc + 3)) (s.prog.read (s.pc + 4))
    let m := ceil8 s.shiftLength.toNat
    let ends := fun st : Status => step s = .next { s with status := st }
    (s.progLen ≤ s.pc → ends (.done (.truncatedProgram s.pc))) ∧
    (s.pc < s.progLen →
      (op ∉ opcValues s.cfg.opc → ends (.done (.badCommand op))) ∧
      (op = s.cfg.opc.shiftInstruction →
        (s.progLen < s.pc + 2 → ends (.done (.truncatedProgram (s.pc + 1)))) ∧
        (s.pc + 2 ≤ s.progLen → 8 * s.cfg.bufCap < n → ends (.done (.capacity n))) ∧
        (s.pc + 2 ≤ s.progLen → n ≤ 8 * s.cfg.bufCap → n = 0 → s.cfg.zeroShift = .refuse →
          ends (.refused (.zeroLengthShift op s.pc))) ∧
        (s.pc + 2 ≤ s.progLen → n ≤ 8 * s.cfg.bufCap → s.progLen < s.pc + 2 + ceil8 n →
          ends (.done (.truncatedProgram (s.pc + 2))))) ∧
      (op = s.cfg.opc.declareRunTest ∨ op = s.cfg.opc.declareShiftSize → s.progLen < s.pc + 5 →
        ends (.done (.truncatedProgram (s.pc + 1)))) ∧
      (op = s.cfg.opc.declareShiftSize → s.pc + 5 ≤ s.progLen → 8 * s.cfg.bufCap < c.toNat → ends (.done (.capacity c.toNat))) ∧
      (op = s.cfg.opc.declareTdoMask → s.progLen < s.pc + 1 + m → ends (.done (.truncatedProgram (s.pc + 1)))) ∧
      (op = s.cfg.opc.shiftData ∨ op = s.cfg.opc.shiftDataCompare → s.shiftLength = 0 → s.cfg.zeroShift = .refuse →
        ends (.refused (.zeroLengthShift op s.pc))) ∧
      (op = s.cfg.opc.shiftData → s.progLen < s.pc + 1 + m → ends (.done (.truncatedProgram (s.pc + 1)))) ∧
      (op = s.cfg.opc.shiftDataCompare → s.progLen < s.pc + 1 + 2 * m →
        ends (.done (.truncatedProgram (s.pc + 1)))))

/-- R165, R204, R209 (D8): a record that raises TruncatedProgram, Capacity or BadCommand, or is refused, changes the status and
nothing else: no pin event, no line, no buffer, no cursor. -/
def Obligations.FailingRecordsChangeOnlyTheStatus : Prop :=
  ∀ s t : State, s.Ready → step s = .next t →
    ((∃ o, t.status = .done (.truncatedProgram o)) ∨ (∃ c, t.status = .done (.capacity c)) ∨
      (∃ op, t.status = .done (.badCommand op)) ∨ (∃ r, t.status = .refused r)) →
    t = { s with status := t.status }

/-- R201 (D7): success comes from the sentinel record and from nothing else. -/
def Obligations.SuccessOnlyFromTheSentinel : Prop :=
  ∀ s t : State, s.Ready → step s = .next t → t.status = .done .success →
    s.pc < s.progLen ∧ s.prog.read s.pc = s.cfg.opc.complete ∧
      t = { s with pc := s.pc + 1, status := .done .success }

/-- R167: any error ends the playback at once: no later step does anything; and no step removes or changes an earlier pin event. That a
step of a done playback answers the same state is the model's choice (DEDUCED, log 11). -/
def Obligations.ErrorsAbortAtOnceAndUndoNothing : Prop :=
  (∀ s t : State, step s = .next t → s.trace <+: t.trace) ∧
  (∀ (s t : State) (r : Result), step s = .next t → t.status = .done r → ∀ k, Host.Core.run core k t = .next t)

/-- R30, R238 (D25): the status leaves Running once: over any run, an ended playback never changes again. That a step of a done
playback answers the same state is the model's choice (log 11). -/
def Obligations.StatusChangesOncePerPlayback : Prop :=
  ∀ (k : Nat) (s t : State), Host.Core.run core k s = .next t → s.Ended → t = s

/-! ### Invariants -/

/-- The start of every playback has the invariant, whatever the configuration, the program and the answers. -/
def Obligations.PlaybackStartHasTheInvariant : Prop :=
  State.reset.Inv ∧ ∀ (cfg : Config) (program : List Byte) (answers : List Bool),
    (State.playback cfg program answers).Inv

/-- Every step keeps the invariant: byte stores canonical and in range (R50, R54), the cursor in the program (R21), the shift length
in a buffer (R22), the lines as last written with TCK at rest low (R33). -/
def Obligations.StepKeepsTheInvariant : Prop :=
  ∀ s t : State, s.Inv → step s = .next t → t.Inv

/-- R54: in a state with the invariant no buffer access is out of range, so a step faults only as a block stuck in a pin operation that
never returns (R235), and never where every one returns; and a step has no meaning only after the playback was refused. That these are the
fault `pinNeverReturns` (DESIGN CHOICE, log 29) and the refusal `playbackRefused` (DEDUCED, log 12) is the model's choice. -/
def Obligations.NoStepFaultsUnderTheInvariant : Prop :=
  ∀ s : State, s.Inv → (∀ f, step s = .fault f → ∃ n es, s.hangsAt = some n ∧ f = .pinNeverReturns es) ∧
    (s.hangsAt = none → ∀ f, step s ≠ .fault f) ∧
    (∀ r, step s = .refused r → ∃ why, s.status = .refused why ∧ r = .playbackRefused why)

/-- R233: at every record boundary after the prologue the target is in Run-Test/Idle with TMS at 0, for every configuration that is not
bad, as long as zero-length shifts are refused. The TAP is the model's observer of the trace (log 17). -/
def Obligations.StepsRestInRunTestIdle : Prop :=
  (∀ (cfg : Config) (program : List Byte) (answers : List Bool), (State.playback cfg program answers).RestsIdle) ∧
  (∀ s t : State, configFault s.cfg = none → s.cfg.zeroShift = .refuse → s.RestsIdle → step s = .next t → t.RestsIdle)

/-- R37, R104, R106, R113 (default `SEQ`, whose patterns are the spec's D4): a target that rests in Run-Test/Idle takes in exactly the
operand's bits, bit k of the operand as bit k, in every shift and in every attempt of a compare; and sample k of every attempt reads the
target's output bit k, counting from 0 in each attempt anew. The target is the model's observer of the trace (log 17). -/
def Obligations.TargetTakesInExactlyTheOperandBits : Prop :=
  ∀ s t : State, s.cfg.seq = defaultSeq → s.RestsIdle → s.prologueDone = true →
    let before := observe s.trace
    let after := observe t.trace
    (∀ (n : BitVec 8) (data : List Byte), (Instr.shiftInstruction n data).WellFormed s.shiftLength = true →
      n ≠ 0 → n.toNat ≤ 8 * s.cfg.bufCap → exec (.shiftInstruction n data) s = .next t →
      after.shifted = before.shifted ++ (List.range n.toNat).map fun k => .driven (bitAt data k)) ∧
    (∀ data : List Byte, (Instr.shiftData data).WellFormed s.shiftLength = true → s.shiftLength ≠ 0 →
      exec (.shiftData data) s = .next t →
      after.shifted = before.shifted ++ (List.range s.shiftLength.toNat).map fun k => .driven (bitAt data k)) ∧
    (∀ pairs : List (Byte × Byte), (Instr.shiftDataCompare pairs).WellFormed s.shiftLength = true → s.shiftLength ≠ 0 →
      exec (.shiftDataCompare pairs) s = .next t →
      ∃ n, 1 ≤ n ∧ n ≤ 32 ∧
        after.shifted = before.shifted ++ (List.range n).flatMap (fun _ =>
          (List.range s.shiftLength.toNat).map fun k => .driven (bitAt (pairs.map Prod.fst) k)) ∧
        after.outputs = before.outputs ++ (List.range n).flatMap (fun a =>
          (List.range s.shiftLength.toNat).map fun k =>
            (k, s.attemptAnswer s.shiftLength.toNat a k)))

/-- R34, R11: the rising edges of a trace are exactly its TCK(1) events, at the start and after every step. -/
def Obligations.RisingEdgesAreTheTckOneEvents : Prop :=
  ∀ s t : State, s.LinesShown → s.lines.tck = .driven false →
    (observe s.trace).edges.length = s.trace.count (.tck true) → step s = .next t →
    t.LinesShown ∧ t.lines.tck = .driven false ∧ (observe t.trace).edges.length = t.trace.count (.tck true)

/-! ### Whole-machine rules -/

/-- R28: which opcode writes which field, and that none writes another; the model's own fields (log 2, log 7, log 8, log 29) are
among them. -/
def Obligations.AccessSummaryOfEveryOpcode : Prop :=
  ∀ (i : Instr) (s t : State), exec i s = .next t →
    t.cfg = s.cfg ∧ t.prog = s.prog ∧ t.progLen = s.progLen ∧ t.prologueDone = s.prologueDone ∧ t.hangsAt = s.hangsAt ∧
    ((∀ v, i ≠ .declareTdoMask v) → t.inMask = s.inMask) ∧
    ((∀ c, i ≠ .declareRunTest c) → t.idleClocks = s.idleClocks) ∧
    ((∀ c, i ≠ .declareShiftSize c) → t.shiftLength = s.shiftLength) ∧
    ((∀ ps, i ≠ .shiftDataCompare ps) →
      t.outData = s.outData ∧ t.expData = s.expData ∧ t.tdoNext = s.tdoNext ∧ t.tdoDraws = s.tdoDraws) ∧
    ((∀ n v, i ≠ .shiftInstruction n v) → (∀ v, i ≠ .shiftData v) → (∀ ps, i ≠ .shiftDataCompare ps) →
      t.inData = s.inData ∧ t.lines = s.lines ∧ t.trace = s.trace)

/-- R107: a shift that does not compare produces no TDO event, and the split has no other visible effect: the other events and the
lines of the two kernels agree, and what a record that does not compare does cannot depend on the target's answers. -/
def Obligations.ShiftsThatDoNotCompareNeverSample : Prop :=
  (∀ (n : Nat) (buf : Memory) (s : State),
    (shiftInOut n buf s).lines = (shiftInOnly n buf s).lines ∧
    (shiftInOut n buf s).trace.filter (fun e => !e.isSample) = (shiftInOnly n buf s).trace.filter (fun e => !e.isSample)) ∧
  (∀ (i : Instr) (s t : State), (∀ ps, i ≠ .shiftDataCompare ps) → exec i s = .next t →
    t.trace.filter PinEvent.isSample = s.trace.filter PinEvent.isSample ∧
    ∀ (answers : List Bool) (draws : Nat), exec i { s with tdoNext := answers, tdoDraws := draws }
      = .next { t with tdoNext := answers, tdoDraws := draws })

/-- R68: no run writes the program, so every fetch reads the bytes given at start. -/
def Obligations.EveryFetchReadsTheBytesGivenAtStart : Prop :=
  ∀ (k : Nat) (s t : State), Host.Core.run core k s = .next t →
    t.prog = s.prog ∧ t.progLen = s.progLen ∧ t.cfg = s.cfg ∧
    t.fetch = decode s.cfg.opc t.shiftLength (s.programFrom t.pc)

/-- R21, R76: a step of a running playback either ends it, with the cursor where it was or past the record, or moves the cursor
forward by exactly the record's length, at least 1, and never past the program. -/
def Obligations.CursorMovesByTheRecordLength : Prop :=
  ∀ s t : State, s.Ready → s.Inv → step s = .next t →
    (t.pc = s.pc ∧ t.Ended) ∨
    ∃ i rest, s.fetch = .record i rest ∧ t.pc = s.pc + recordLength s.shiftLength i ∧
      1 ≤ recordLength s.shiftLength i ∧ t.pc ≤ t.progLen

/-- R166: every playback whose pin operations return ends: within one step for the prologue and one for each byte left, and one more.
Where a pin operation never returns, it ends within that many steps, or the block is stuck by then (R235), as the fault
`pinNeverReturns`, which is the model's choice (DESIGN CHOICE, log 29). -/
def Obligations.EveryPlaybackEnds : Prop :=
  (∀ s : State, s.Inv → s.hangsAt = none →
    ∃ k t, k ≤ s.progLen - s.pc + 2 ∧ (s.prologueDone = true → k ≤ s.progLen - s.pc + 1) ∧
      Host.Core.run core k s = .next t ∧ t.Ended) ∧
  (∀ s : State, s.Inv → ∃ k, k ≤ s.progLen - s.pc + 2 ∧ (s.prologueDone = true → k ≤ s.progLen - s.pc + 1) ∧
    ((∃ t, Host.Core.run core k s = .next t ∧ t.Ended) ∨ ∃ es, Host.Core.run core k s = .fault (.pinNeverReturns es))) ∧
  (∀ (cfg : Config) (program : List Byte) (answers : List Bool), ∃ k t, k ≤ program.length + 2 ∧
    Host.Core.run core k (State.playback cfg program answers) = .next t ∧ t.Ended)

/-- R235 (U13): a pin operation that never returns leaves the block stuck in it, with the trace of those that returned, and no timeout
gets it out; every record, and the prologue, whose operations return goes on as if none hung. That being stuck is the fault
`pinNeverReturns` is the model's choice (DESIGN CHOICE, log 29). -/
def Obligations.PinOperationThatNeverReturnsLeavesTheBlockStuck : Prop :=
  (∀ (s t : State) (i : Instr) (rest : List Byte) (n : Nat), s.Ready → s.fetch = .record i rest → s.hangsAt = some n →
    exec i s = .next t →
    (s.trace.length ≤ n → n < t.trace.length → step s = .fault (.pinNeverReturns (t.trace.take n))) ∧
    (t.trace.length ≤ n → step s = .next t)) ∧
  (∀ (s : State) (n : Nat), s.status = .running → s.prologueDone = false → s.hangsAt = some n → configFault s.cfg = none →
    (s.trace.length ≤ n → n < s.trace.length + (transitionEvents s.cfg.seq.resetIdle).length →
      step s = .fault (.pinNeverReturns (s.trace ++ (transitionEvents s.cfg.seq.resetIdle).take (n - s.trace.length)))) ∧
    (s.trace.length + (transitionEvents s.cfg.seq.resetIdle).length ≤ n → step s = .next s.start)) ∧
  (∀ (s : State) (es : List PinEvent), step s = .fault (.pinNeverReturns es) →
    s.status = .running ∧ s.hangsAt = some es.length ∧ s.trace <+: es) ∧
  (∀ (k j : Nat) (s : State) (es : List PinEvent), Host.Core.run core k s = .fault (.pinNeverReturns es) →
    Host.Core.run core (k + j) s = .fault (.pinNeverReturns es))
end

