-- ==== Sys2Proof/Laws/Memory.lean ====
section
/-! SUPPORT. The laws of byte storage: a read after a write, byte by byte, for every memory, and that every operation keeps
the canonical form and its range. -/

namespace Sys2Proof.Machine.Memory

theorem read_drop (m : Memory) (a x : Nat) : (m.drop a).read x = if x = a then unlisted else m.read x := by
  induction m with
  | nil => simp [drop, read]
  | cons c m ih =>
    obtain ⟨k, v⟩ := c
    simp only [drop] at ih
    by_cases hk : k = a
    · subst hk
      simp only [drop, List.filter_cons, bne_self_eq_false, Bool.false_eq_true, if_false, read, ih]
      by_cases hx : x = k
      · simp [hx]
      · simp [hx, Ne.symm hx]
    · have : (k != a) = true := by simp [hk]
      simp only [drop, List.filter_cons, this, if_true, read, ih]
      by_cases hx : k = x
      · subst hx; simp [hk]
      · simp [hx]

theorem read_put (m : Memory) (a : Nat) (b : Byte) (x : Nat) (h : ∀ c ∈ m, c.1 ≠ a) :
    Memory.read (put a b m) x = if x = a then b else m.read x := by
  induction m with
  | nil => simp [put, read, eq_comm]
  | cons c m ih =>
    obtain ⟨k, v⟩ := c
    have hk : k ≠ a := h (k, v) (by simp)
    have ih := ih fun c hc => h c (by simp [hc])
    simp only [put]
    split
    · by_cases hx : a = x
      · subst hx; simp [read]
      · simp [read, hx, Ne.symm hx]
    · simp only [read, ih]
      by_cases hx : k = x
      · subst hx; simp [hk]
      · simp [hx]

theorem not_mem_drop (m : Memory) (a : Nat) : ∀ c ∈ m.drop a, c.1 ≠ a := by
  intro c hc
  simpa using (List.mem_filter.1 hc).2

/-- A read after a write: the byte written at that address, every other byte as before. -/
theorem read_write (m : Memory) (a : Nat) (b : Byte) (x : Nat) :
    (m.write a b).read x = if x = a then b else m.read x := by
  unfold write
  split
  · rename_i h; rw [read_drop, h]
  · rw [read_put _ _ _ _ (not_mem_drop m a), read_drop]
    by_cases hx : x = a <;> simp [hx]

/-- A read after writing bytes at `a`: those bytes, every other byte as before. -/
theorem read_writeBytes (m : Memory) (a : Nat) (bs : List Byte) (x : Nat) :
    (m.writeBytes a bs).read x = if a ≤ x ∧ x < a + bs.length then bs.getD (x - a) 0 else m.read x := by
  induction bs generalizing m a with
  | nil => simp [writeBytes]
  | cons b bs ih =>
    rw [writeBytes, ih, read_write, List.length_cons]
    by_cases h1 : x = a
    · subst h1; simp
    · by_cases h2 : a + 1 ≤ x ∧ x < a + 1 + bs.length
      · have h3 : x - a = (x - (a + 1)) + 1 := by omega
        rw [if_pos h2, if_pos (by omega), h3, List.getD_cons_succ]
      · rw [if_neg h2, if_neg h1, if_neg (by omega)]

@[simp] theorem read_nil (x : Nat) : Memory.read [] x = 0 := rfl

theorem drop_fits {m : Memory} {n : Nat} (a : Nat) (hw : m.wf) (hn : m.within n) :
    (m.drop a).wf ∧ (m.drop a).within n := by
  refine ⟨⟨hw.1.filter _, fun c hc => hw.2 c (List.mem_filter.1 hc).1⟩, fun c hc => hn c (List.mem_filter.1 hc).1⟩

theorem mem_put {a : Nat} {b : Byte} {m : Memory} {c : Host.Cell} (h : c ∈ put a b m) : c = (a, b) ∨ c ∈ m := by
  induction m with
  | nil => simpa [put] using h
  | cons d m ih =>
    obtain ⟨k, v⟩ := d
    simp only [put] at h
    split at h
    · simpa using h
    · rcases List.mem_cons.1 h with h | h
      · exact .inr (by simp [h])
      · rcases ih h with h | h
        · exact .inl h
        · exact .inr (by simp [h])

theorem put_fits {m : Memory} {n a : Nat} {b : Byte} (hw : m.wf) (hn : m.within n) (ha : a < n) (hb : b ≠ unlisted)
    (hm : ∀ c ∈ m, c.1 ≠ a) : wf (put a b m) ∧ within (put a b m) n := by
  refine ⟨⟨?_, fun c hc => ?_⟩, fun c hc => ?_⟩
  · obtain ⟨hp, -⟩ := hw
    clear hn
    induction m with
    | nil => simp [put]
    | cons d m ih =>
      obtain ⟨k, v⟩ := d
      have hk : k ≠ a := hm (k, v) (by simp)
      have hp' := List.pairwise_cons.1 hp
      simp only [put]
      split
      · rename_i hlt
        refine List.pairwise_cons.2 ⟨fun c hc => ?_, hp⟩
        rcases List.mem_cons.1 hc with rfl | hc
        · exact hlt
        · exact lt_trans hlt (hp'.1 c hc)
      · rename_i hlt
        refine List.pairwise_cons.2 ⟨fun c hc => ?_, ih (fun c hc => hm c (by simp [hc])) hp'.2⟩
        rcases mem_put hc with rfl | hc
        · show k < a; omega
        · exact hp'.1 c hc
  · rcases mem_put hc with rfl | hc
    · exact hb
    · exact hw.2 c hc
  · rcases mem_put hc with rfl | hc
    · exact ha
    · exact hn c hc

/-- A write inside the range keeps the canonical form and the range. -/
theorem write_fits {m : Memory} {n a : Nat} (b : Byte) (hw : m.wf) (hn : m.within n) (ha : a < n) :
    (m.write a b).wf ∧ (m.write a b).within n := by
  unfold write
  split
  · exact drop_fits a hw hn
  · rename_i hb
    obtain ⟨h1, h2⟩ := drop_fits a hw hn
    exact put_fits h1 h2 ha hb (not_mem_drop m a)

/-- Writing bytes inside the range keeps the canonical form and the range. -/
theorem writeBytes_fits {m : Memory} {n a : Nat} (bs : List Byte) (hw : m.wf) (hn : m.within n)
    (ha : a + bs.length ≤ n) : (m.writeBytes a bs).wf ∧ (m.writeBytes a bs).within n := by
  induction bs generalizing m a with
  | nil => exact ⟨hw, hn⟩
  | cons b bs ih =>
    rw [List.length_cons] at ha
    obtain ⟨h1, h2⟩ := write_fits b hw hn (show a < n by omega)
    exact ih h1 h2 (by omega)

/-- Putting a sampled bit inside the range keeps the canonical form and the range. -/
theorem orBit_fits {m : Memory} {n k : Nat} (b : Bool) (hw : m.wf) (hn : m.within n) (hk : k / 8 < n) :
    (m.orBit k b).wf ∧ (m.orBit k b).within n := write_fits _ hw hn hk

/-- Equal canonical memories are equal lists: memories that read alike everywhere are the same data. -/
theorem eq_of_read {m m' : Memory} (hw : m.wf) (hw' : m'.wf) (h : ∀ a, m.read a = m'.read a) : m = m' := by
  have low : ∀ {l : Memory} {a : Nat}, (∀ c ∈ l, a < c.1) → l.read a = unlisted := by
    intro l a hl
    induction l with
    | nil => rfl
    | cons c l ih =>
      obtain ⟨k, v⟩ := c
      have : a < k := hl (k, v) (by simp)
      rw [read, if_neg (by omega)]
      exact ih fun c hc => hl c (by simp [hc])
  induction m generalizing m' with
  | nil =>
    cases m' with
    | nil => rfl
    | cons c m' =>
      obtain ⟨k, v⟩ := c
      have h1 := h k
      simp only [read, if_true] at h1
      exact absurd h1.symm (hw'.2 (k, v) (by simp))
  | cons c m ih =>
    obtain ⟨k, v⟩ := c
    cases m' with
    | nil =>
      have h1 := h k
      simp only [read, if_true] at h1
      exact absurd h1 (hw.2 (k, v) (by simp))
    | cons c' m' =>
      obtain ⟨k', v'⟩ := c'
      have hp := List.pairwise_cons.1 hw.1
      have hp' := List.pairwise_cons.1 hw'.1
      have hv : v ≠ unlisted := hw.2 (k, v) (by simp)
      have hv' : v' ≠ unlisted := hw'.2 (k', v') (by simp)
      have hk : k = k' := by
        rcases Nat.lt_trichotomy k k' with hlt | heq | hlt
        · have h1 := h k
          rw [read, if_pos rfl, low (l := (k', v') :: m') (a := k) ?_] at h1
          · exact absurd h1 hv
          · intro c hc
            rcases List.mem_cons.1 hc with rfl | hc
            · exact hlt
            · exact lt_trans hlt (hp'.1 c hc)
        · exact heq
        · have h1 := h k'
          rw [low (l := (k, v) :: m) (a := k') ?_, read, if_pos rfl] at h1
          · exact absurd h1.symm hv'
          · intro c hc
            rcases List.mem_cons.1 hc with rfl | hc
            · exact hlt
            · exact lt_trans hlt (hp.1 c hc)
      subst hk
      have hvv : v = v' := by simpa [read] using h k
      subst hvv
      refine congrArg _ (ih ⟨hp.2, fun c hc => hw.2 c (by simp [hc])⟩ ⟨hp'.2, fun c hc => hw'.2 c (by simp [hc])⟩ ?_)
      intro a
      by_cases ha : a = k
      · subst ha
        rw [low hp.1, low hp'.1]
      · have h1 := h a
        rwa [read, if_neg (Ne.symm ha), read, if_neg (Ne.symm ha)] at h1

end Sys2Proof.Machine.Memory
end

