-- ==== Sys2Proof/Laws/State.lean ====
section
/-! SUPPORT. The update lemmas of State: one per field per update operation, so that no proof unfolds a record update. The
derived operations (raise, finish, refuse, pulse, the operand loads of pairs) unfold into these. -/

namespace Sys2Proof.Machine.State

variable (s : State)

/-! ### pinTck -/

@[simp] theorem pinTck_cfg (b : Bool) : (s.pinTck b).cfg = s.cfg := rfl
@[simp] theorem pinTck_prog (b : Bool) : (s.pinTck b).prog = s.prog := rfl
@[simp] theorem pinTck_progLen (b : Bool) : (s.pinTck b).progLen = s.progLen := rfl
@[simp] theorem pinTck_prologueDone (b : Bool) : (s.pinTck b).prologueDone = s.prologueDone := rfl
@[simp] theorem pinTck_pc (b : Bool) : (s.pinTck b).pc = s.pc := rfl
@[simp] theorem pinTck_shiftLength (b : Bool) : (s.pinTck b).shiftLength = s.shiftLength := rfl
@[simp] theorem pinTck_idleClocks (b : Bool) : (s.pinTck b).idleClocks = s.idleClocks := rfl
@[simp] theorem pinTck_inMask (b : Bool) : (s.pinTck b).inMask = s.inMask := rfl
@[simp] theorem pinTck_inData (b : Bool) : (s.pinTck b).inData = s.inData := rfl
@[simp] theorem pinTck_outData (b : Bool) : (s.pinTck b).outData = s.outData := rfl
@[simp] theorem pinTck_expData (b : Bool) : (s.pinTck b).expData = s.expData := rfl
@[simp] theorem pinTck_lines (b : Bool) : (s.pinTck b).lines = { s.lines with tck := .driven b } := rfl
@[simp] theorem pinTck_trace (b : Bool) : (s.pinTck b).trace = s.trace ++ [.tck b] := rfl
@[simp] theorem pinTck_status (b : Bool) : (s.pinTck b).status = s.status := rfl
@[simp] theorem pinTck_tdoNext (b : Bool) : (s.pinTck b).tdoNext = s.tdoNext := rfl
@[simp] theorem pinTck_tdoDraws (b : Bool) : (s.pinTck b).tdoDraws = s.tdoDraws := rfl
@[simp] theorem pinTck_hangsAt (b : Bool) : (s.pinTck b).hangsAt = s.hangsAt := rfl

/-! ### pinTms -/

@[simp] theorem pinTms_cfg (b : Bool) : (s.pinTms b).cfg = s.cfg := rfl
@[simp] theorem pinTms_prog (b : Bool) : (s.pinTms b).prog = s.prog := rfl
@[simp] theorem pinTms_progLen (b : Bool) : (s.pinTms b).progLen = s.progLen := rfl
@[simp] theorem pinTms_prologueDone (b : Bool) : (s.pinTms b).prologueDone = s.prologueDone := rfl
@[simp] theorem pinTms_pc (b : Bool) : (s.pinTms b).pc = s.pc := rfl
@[simp] theorem pinTms_shiftLength (b : Bool) : (s.pinTms b).shiftLength = s.shiftLength := rfl
@[simp] theorem pinTms_idleClocks (b : Bool) : (s.pinTms b).idleClocks = s.idleClocks := rfl
@[simp] theorem pinTms_inMask (b : Bool) : (s.pinTms b).inMask = s.inMask := rfl
@[simp] theorem pinTms_inData (b : Bool) : (s.pinTms b).inData = s.inData := rfl
@[simp] theorem pinTms_outData (b : Bool) : (s.pinTms b).outData = s.outData := rfl
@[simp] theorem pinTms_expData (b : Bool) : (s.pinTms b).expData = s.expData := rfl
@[simp] theorem pinTms_lines (b : Bool) : (s.pinTms b).lines = { s.lines with tms := .driven b } := rfl
@[simp] theorem pinTms_trace (b : Bool) : (s.pinTms b).trace = s.trace ++ [.tms b] := rfl
@[simp] theorem pinTms_status (b : Bool) : (s.pinTms b).status = s.status := rfl
@[simp] theorem pinTms_tdoNext (b : Bool) : (s.pinTms b).tdoNext = s.tdoNext := rfl
@[simp] theorem pinTms_tdoDraws (b : Bool) : (s.pinTms b).tdoDraws = s.tdoDraws := rfl
@[simp] theorem pinTms_hangsAt (b : Bool) : (s.pinTms b).hangsAt = s.hangsAt := rfl

/-! ### pinTdi -/

@[simp] theorem pinTdi_cfg (b : Bool) : (s.pinTdi b).cfg = s.cfg := rfl
@[simp] theorem pinTdi_prog (b : Bool) : (s.pinTdi b).prog = s.prog := rfl
@[simp] theorem pinTdi_progLen (b : Bool) : (s.pinTdi b).progLen = s.progLen := rfl
@[simp] theorem pinTdi_prologueDone (b : Bool) : (s.pinTdi b).prologueDone = s.prologueDone := rfl
@[simp] theorem pinTdi_pc (b : Bool) : (s.pinTdi b).pc = s.pc := rfl
@[simp] theorem pinTdi_shiftLength (b : Bool) : (s.pinTdi b).shiftLength = s.shiftLength := rfl
@[simp] theorem pinTdi_idleClocks (b : Bool) : (s.pinTdi b).idleClocks = s.idleClocks := rfl
@[simp] theorem pinTdi_inMask (b : Bool) : (s.pinTdi b).inMask = s.inMask := rfl
@[simp] theorem pinTdi_inData (b : Bool) : (s.pinTdi b).inData = s.inData := rfl
@[simp] theorem pinTdi_outData (b : Bool) : (s.pinTdi b).outData = s.outData := rfl
@[simp] theorem pinTdi_expData (b : Bool) : (s.pinTdi b).expData = s.expData := rfl
@[simp] theorem pinTdi_lines (b : Bool) : (s.pinTdi b).lines = { s.lines with tdi := .driven b } := rfl
@[simp] theorem pinTdi_trace (b : Bool) : (s.pinTdi b).trace = s.trace ++ [.tdi b] := rfl
@[simp] theorem pinTdi_status (b : Bool) : (s.pinTdi b).status = s.status := rfl
@[simp] theorem pinTdi_tdoNext (b : Bool) : (s.pinTdi b).tdoNext = s.tdoNext := rfl
@[simp] theorem pinTdi_tdoDraws (b : Bool) : (s.pinTdi b).tdoDraws = s.tdoDraws := rfl
@[simp] theorem pinTdi_hangsAt (b : Bool) : (s.pinTdi b).hangsAt = s.hangsAt := rfl

/-! ### sampleTdo -/

@[simp] theorem sampleTdo_cfg : (s.sampleTdo).cfg = s.cfg := rfl
@[simp] theorem sampleTdo_prog : (s.sampleTdo).prog = s.prog := rfl
@[simp] theorem sampleTdo_progLen : (s.sampleTdo).progLen = s.progLen := rfl
@[simp] theorem sampleTdo_prologueDone : (s.sampleTdo).prologueDone = s.prologueDone := rfl
@[simp] theorem sampleTdo_pc : (s.sampleTdo).pc = s.pc := rfl
@[simp] theorem sampleTdo_shiftLength : (s.sampleTdo).shiftLength = s.shiftLength := rfl
@[simp] theorem sampleTdo_idleClocks : (s.sampleTdo).idleClocks = s.idleClocks := rfl
@[simp] theorem sampleTdo_inMask : (s.sampleTdo).inMask = s.inMask := rfl
@[simp] theorem sampleTdo_inData : (s.sampleTdo).inData = s.inData := rfl
@[simp] theorem sampleTdo_outData : (s.sampleTdo).outData = s.outData := rfl
@[simp] theorem sampleTdo_expData : (s.sampleTdo).expData = s.expData := rfl
@[simp] theorem sampleTdo_lines : (s.sampleTdo).lines = s.lines := rfl
@[simp] theorem sampleTdo_trace : (s.sampleTdo).trace = s.trace ++ [.tdo (s.draw 0)] := rfl
@[simp] theorem sampleTdo_status : (s.sampleTdo).status = s.status := rfl
@[simp] theorem sampleTdo_tdoNext : (s.sampleTdo).tdoNext = s.tdoNext.tail := rfl
@[simp] theorem sampleTdo_tdoDraws : (s.sampleTdo).tdoDraws = s.tdoDraws + 1 := rfl
@[simp] theorem sampleTdo_hangsAt : (s.sampleTdo).hangsAt = s.hangsAt := rfl

/-! ### setStatus -/

@[simp] theorem setStatus_cfg (st : Status) : (s.setStatus st).cfg = s.cfg := rfl
@[simp] theorem setStatus_prog (st : Status) : (s.setStatus st).prog = s.prog := rfl
@[simp] theorem setStatus_progLen (st : Status) : (s.setStatus st).progLen = s.progLen := rfl
@[simp] theorem setStatus_prologueDone (st : Status) : (s.setStatus st).prologueDone = s.prologueDone := rfl
@[simp] theorem setStatus_pc (st : Status) : (s.setStatus st).pc = s.pc := rfl
@[simp] theorem setStatus_shiftLength (st : Status) : (s.setStatus st).shiftLength = s.shiftLength := rfl
@[simp] theorem setStatus_idleClocks (st : Status) : (s.setStatus st).idleClocks = s.idleClocks := rfl
@[simp] theorem setStatus_inMask (st : Status) : (s.setStatus st).inMask = s.inMask := rfl
@[simp] theorem setStatus_inData (st : Status) : (s.setStatus st).inData = s.inData := rfl
@[simp] theorem setStatus_outData (st : Status) : (s.setStatus st).outData = s.outData := rfl
@[simp] theorem setStatus_expData (st : Status) : (s.setStatus st).expData = s.expData := rfl
@[simp] theorem setStatus_lines (st : Status) : (s.setStatus st).lines = s.lines := rfl
@[simp] theorem setStatus_trace (st : Status) : (s.setStatus st).trace = s.trace := rfl
@[simp] theorem setStatus_status (st : Status) : (s.setStatus st).status = st := rfl
@[simp] theorem setStatus_tdoNext (st : Status) : (s.setStatus st).tdoNext = s.tdoNext := rfl
@[simp] theorem setStatus_tdoDraws (st : Status) : (s.setStatus st).tdoDraws = s.tdoDraws := rfl
@[simp] theorem setStatus_hangsAt (st : Status) : (s.setStatus st).hangsAt = s.hangsAt := rfl

/-! ### advance -/

@[simp] theorem advance_cfg (n : Nat) : (s.advance n).cfg = s.cfg := rfl
@[simp] theorem advance_prog (n : Nat) : (s.advance n).prog = s.prog := rfl
@[simp] theorem advance_progLen (n : Nat) : (s.advance n).progLen = s.progLen := rfl
@[simp] theorem advance_prologueDone (n : Nat) : (s.advance n).prologueDone = s.prologueDone := rfl
@[simp] theorem advance_pc (n : Nat) : (s.advance n).pc = s.pc + n := rfl
@[simp] theorem advance_shiftLength (n : Nat) : (s.advance n).shiftLength = s.shiftLength := rfl
@[simp] theorem advance_idleClocks (n : Nat) : (s.advance n).idleClocks = s.idleClocks := rfl
@[simp] theorem advance_inMask (n : Nat) : (s.advance n).inMask = s.inMask := rfl
@[simp] theorem advance_inData (n : Nat) : (s.advance n).inData = s.inData := rfl
@[simp] theorem advance_outData (n : Nat) : (s.advance n).outData = s.outData := rfl
@[simp] theorem advance_expData (n : Nat) : (s.advance n).expData = s.expData := rfl
@[simp] theorem advance_lines (n : Nat) : (s.advance n).lines = s.lines := rfl
@[simp] theorem advance_trace (n : Nat) : (s.advance n).trace = s.trace := rfl
@[simp] theorem advance_status (n : Nat) : (s.advance n).status = s.status := rfl
@[simp] theorem advance_tdoNext (n : Nat) : (s.advance n).tdoNext = s.tdoNext := rfl
@[simp] theorem advance_tdoDraws (n : Nat) : (s.advance n).tdoDraws = s.tdoDraws := rfl
@[simp] theorem advance_hangsAt (n : Nat) : (s.advance n).hangsAt = s.hangsAt := rfl

/-! ### setShiftLength -/

@[simp] theorem setShiftLength_cfg (c : U32) : (s.setShiftLength c).cfg = s.cfg := rfl
@[simp] theorem setShiftLength_prog (c : U32) : (s.setShiftLength c).prog = s.prog := rfl
@[simp] theorem setShiftLength_progLen (c : U32) : (s.setShiftLength c).progLen = s.progLen := rfl
@[simp] theorem setShiftLength_prologueDone (c : U32) : (s.setShiftLength c).prologueDone = s.prologueDone := rfl
@[simp] theorem setShiftLength_pc (c : U32) : (s.setShiftLength c).pc = s.pc := rfl
@[simp] theorem setShiftLength_shiftLength (c : U32) : (s.setShiftLength c).shiftLength = c := rfl
@[simp] theorem setShiftLength_idleClocks (c : U32) : (s.setShiftLength c).idleClocks = s.idleClocks := rfl
@[simp] theorem setShiftLength_inMask (c : U32) : (s.setShiftLength c).inMask = s.inMask := rfl
@[simp] theorem setShiftLength_inData (c : U32) : (s.setShiftLength c).inData = s.inData := rfl
@[simp] theorem setShiftLength_outData (c : U32) : (s.setShiftLength c).outData = s.outData := rfl
@[simp] theorem setShiftLength_expData (c : U32) : (s.setShiftLength c).expData = s.expData := rfl
@[simp] theorem setShiftLength_lines (c : U32) : (s.setShiftLength c).lines = s.lines := rfl
@[simp] theorem setShiftLength_trace (c : U32) : (s.setShiftLength c).trace = s.trace := rfl
@[simp] theorem setShiftLength_status (c : U32) : (s.setShiftLength c).status = s.status := rfl
@[simp] theorem setShiftLength_tdoNext (c : U32) : (s.setShiftLength c).tdoNext = s.tdoNext := rfl
@[simp] theorem setShiftLength_tdoDraws (c : U32) : (s.setShiftLength c).tdoDraws = s.tdoDraws := rfl
@[simp] theorem setShiftLength_hangsAt (c : U32) : (s.setShiftLength c).hangsAt = s.hangsAt := rfl

/-! ### setIdleClocks -/

@[simp] theorem setIdleClocks_cfg (c : U32) : (s.setIdleClocks c).cfg = s.cfg := rfl
@[simp] theorem setIdleClocks_prog (c : U32) : (s.setIdleClocks c).prog = s.prog := rfl
@[simp] theorem setIdleClocks_progLen (c : U32) : (s.setIdleClocks c).progLen = s.progLen := rfl
@[simp] theorem setIdleClocks_prologueDone (c : U32) : (s.setIdleClocks c).prologueDone = s.prologueDone := rfl
@[simp] theorem setIdleClocks_pc (c : U32) : (s.setIdleClocks c).pc = s.pc := rfl
@[simp] theorem setIdleClocks_shiftLength (c : U32) : (s.setIdleClocks c).shiftLength = s.shiftLength := rfl
@[simp] theorem setIdleClocks_idleClocks (c : U32) : (s.setIdleClocks c).idleClocks = c := rfl
@[simp] theorem setIdleClocks_inMask (c : U32) : (s.setIdleClocks c).inMask = s.inMask := rfl
@[simp] theorem setIdleClocks_inData (c : U32) : (s.setIdleClocks c).inData = s.inData := rfl
@[simp] theorem setIdleClocks_outData (c : U32) : (s.setIdleClocks c).outData = s.outData := rfl
@[simp] theorem setIdleClocks_expData (c : U32) : (s.setIdleClocks c).expData = s.expData := rfl
@[simp] theorem setIdleClocks_lines (c : U32) : (s.setIdleClocks c).lines = s.lines := rfl
@[simp] theorem setIdleClocks_trace (c : U32) : (s.setIdleClocks c).trace = s.trace := rfl
@[simp] theorem setIdleClocks_status (c : U32) : (s.setIdleClocks c).status = s.status := rfl
@[simp] theorem setIdleClocks_tdoNext (c : U32) : (s.setIdleClocks c).tdoNext = s.tdoNext := rfl
@[simp] theorem setIdleClocks_tdoDraws (c : U32) : (s.setIdleClocks c).tdoDraws = s.tdoDraws := rfl
@[simp] theorem setIdleClocks_hangsAt (c : U32) : (s.setIdleClocks c).hangsAt = s.hangsAt := rfl

/-! ### markPrologue -/

@[simp] theorem markPrologue_cfg : (s.markPrologue).cfg = s.cfg := rfl
@[simp] theorem markPrologue_prog : (s.markPrologue).prog = s.prog := rfl
@[simp] theorem markPrologue_progLen : (s.markPrologue).progLen = s.progLen := rfl
@[simp] theorem markPrologue_prologueDone : (s.markPrologue).prologueDone = true := rfl
@[simp] theorem markPrologue_pc : (s.markPrologue).pc = s.pc := rfl
@[simp] theorem markPrologue_shiftLength : (s.markPrologue).shiftLength = s.shiftLength := rfl
@[simp] theorem markPrologue_idleClocks : (s.markPrologue).idleClocks = s.idleClocks := rfl
@[simp] theorem markPrologue_inMask : (s.markPrologue).inMask = s.inMask := rfl
@[simp] theorem markPrologue_inData : (s.markPrologue).inData = s.inData := rfl
@[simp] theorem markPrologue_outData : (s.markPrologue).outData = s.outData := rfl
@[simp] theorem markPrologue_expData : (s.markPrologue).expData = s.expData := rfl
@[simp] theorem markPrologue_lines : (s.markPrologue).lines = s.lines := rfl
@[simp] theorem markPrologue_trace : (s.markPrologue).trace = s.trace := rfl
@[simp] theorem markPrologue_status : (s.markPrologue).status = s.status := rfl
@[simp] theorem markPrologue_tdoNext : (s.markPrologue).tdoNext = s.tdoNext := rfl
@[simp] theorem markPrologue_tdoDraws : (s.markPrologue).tdoDraws = s.tdoDraws := rfl
@[simp] theorem markPrologue_hangsAt : (s.markPrologue).hangsAt = s.hangsAt := rfl

/-! ### setOutData -/

@[simp] theorem setOutData_cfg (m : Memory) : (s.setOutData m).cfg = s.cfg := rfl
@[simp] theorem setOutData_prog (m : Memory) : (s.setOutData m).prog = s.prog := rfl
@[simp] theorem setOutData_progLen (m : Memory) : (s.setOutData m).progLen = s.progLen := rfl
@[simp] theorem setOutData_prologueDone (m : Memory) : (s.setOutData m).prologueDone = s.prologueDone := rfl
@[simp] theorem setOutData_pc (m : Memory) : (s.setOutData m).pc = s.pc := rfl
@[simp] theorem setOutData_shiftLength (m : Memory) : (s.setOutData m).shiftLength = s.shiftLength := rfl
@[simp] theorem setOutData_idleClocks (m : Memory) : (s.setOutData m).idleClocks = s.idleClocks := rfl
@[simp] theorem setOutData_inMask (m : Memory) : (s.setOutData m).inMask = s.inMask := rfl
@[simp] theorem setOutData_inData (m : Memory) : (s.setOutData m).inData = s.inData := rfl
@[simp] theorem setOutData_outData (m : Memory) : (s.setOutData m).outData = m := rfl
@[simp] theorem setOutData_expData (m : Memory) : (s.setOutData m).expData = s.expData := rfl
@[simp] theorem setOutData_lines (m : Memory) : (s.setOutData m).lines = s.lines := rfl
@[simp] theorem setOutData_trace (m : Memory) : (s.setOutData m).trace = s.trace := rfl
@[simp] theorem setOutData_status (m : Memory) : (s.setOutData m).status = s.status := rfl
@[simp] theorem setOutData_tdoNext (m : Memory) : (s.setOutData m).tdoNext = s.tdoNext := rfl
@[simp] theorem setOutData_tdoDraws (m : Memory) : (s.setOutData m).tdoDraws = s.tdoDraws := rfl
@[simp] theorem setOutData_hangsAt (m : Memory) : (s.setOutData m).hangsAt = s.hangsAt := rfl

/-! ### loadMask -/

@[simp] theorem loadMask_cfg (v : List Byte) : (s.loadMask v).cfg = s.cfg := rfl
@[simp] theorem loadMask_prog (v : List Byte) : (s.loadMask v).prog = s.prog := rfl
@[simp] theorem loadMask_progLen (v : List Byte) : (s.loadMask v).progLen = s.progLen := rfl
@[simp] theorem loadMask_prologueDone (v : List Byte) : (s.loadMask v).prologueDone = s.prologueDone := rfl
@[simp] theorem loadMask_pc (v : List Byte) : (s.loadMask v).pc = s.pc := rfl
@[simp] theorem loadMask_shiftLength (v : List Byte) : (s.loadMask v).shiftLength = s.shiftLength := rfl
@[simp] theorem loadMask_idleClocks (v : List Byte) : (s.loadMask v).idleClocks = s.idleClocks := rfl
@[simp] theorem loadMask_inMask (v : List Byte) : (s.loadMask v).inMask = s.inMask.writeBytes 0 v := rfl
@[simp] theorem loadMask_inData (v : List Byte) : (s.loadMask v).inData = s.inData := rfl
@[simp] theorem loadMask_outData (v : List Byte) : (s.loadMask v).outData = s.outData := rfl
@[simp] theorem loadMask_expData (v : List Byte) : (s.loadMask v).expData = s.expData := rfl
@[simp] theorem loadMask_lines (v : List Byte) : (s.loadMask v).lines = s.lines := rfl
@[simp] theorem loadMask_trace (v : List Byte) : (s.loadMask v).trace = s.trace := rfl
@[simp] theorem loadMask_status (v : List Byte) : (s.loadMask v).status = s.status := rfl
@[simp] theorem loadMask_tdoNext (v : List Byte) : (s.loadMask v).tdoNext = s.tdoNext := rfl
@[simp] theorem loadMask_tdoDraws (v : List Byte) : (s.loadMask v).tdoDraws = s.tdoDraws := rfl
@[simp] theorem loadMask_hangsAt (v : List Byte) : (s.loadMask v).hangsAt = s.hangsAt := rfl

/-! ### loadData -/

@[simp] theorem loadData_cfg (v : List Byte) : (s.loadData v).cfg = s.cfg := rfl
@[simp] theorem loadData_prog (v : List Byte) : (s.loadData v).prog = s.prog := rfl
@[simp] theorem loadData_progLen (v : List Byte) : (s.loadData v).progLen = s.progLen := rfl
@[simp] theorem loadData_prologueDone (v : List Byte) : (s.loadData v).prologueDone = s.prologueDone := rfl
@[simp] theorem loadData_pc (v : List Byte) : (s.loadData v).pc = s.pc := rfl
@[simp] theorem loadData_shiftLength (v : List Byte) : (s.loadData v).shiftLength = s.shiftLength := rfl
@[simp] theorem loadData_idleClocks (v : List Byte) : (s.loadData v).idleClocks = s.idleClocks := rfl
@[simp] theorem loadData_inMask (v : List Byte) : (s.loadData v).inMask = s.inMask := rfl
@[simp] theorem loadData_inData (v : List Byte) : (s.loadData v).inData = s.inData.writeBytes 0 v := rfl
@[simp] theorem loadData_outData (v : List Byte) : (s.loadData v).outData = s.outData := rfl
@[simp] theorem loadData_expData (v : List Byte) : (s.loadData v).expData = s.expData := rfl
@[simp] theorem loadData_lines (v : List Byte) : (s.loadData v).lines = s.lines := rfl
@[simp] theorem loadData_trace (v : List Byte) : (s.loadData v).trace = s.trace := rfl
@[simp] theorem loadData_status (v : List Byte) : (s.loadData v).status = s.status := rfl
@[simp] theorem loadData_tdoNext (v : List Byte) : (s.loadData v).tdoNext = s.tdoNext := rfl
@[simp] theorem loadData_tdoDraws (v : List Byte) : (s.loadData v).tdoDraws = s.tdoDraws := rfl
@[simp] theorem loadData_hangsAt (v : List Byte) : (s.loadData v).hangsAt = s.hangsAt := rfl

/-! ### loadExpected -/

@[simp] theorem loadExpected_cfg (v : List Byte) : (s.loadExpected v).cfg = s.cfg := rfl
@[simp] theorem loadExpected_prog (v : List Byte) : (s.loadExpected v).prog = s.prog := rfl
@[simp] theorem loadExpected_progLen (v : List Byte) : (s.loadExpected v).progLen = s.progLen := rfl
@[simp] theorem loadExpected_prologueDone (v : List Byte) : (s.loadExpected v).prologueDone = s.prologueDone := rfl
@[simp] theorem loadExpected_pc (v : List Byte) : (s.loadExpected v).pc = s.pc := rfl
@[simp] theorem loadExpected_shiftLength (v : List Byte) : (s.loadExpected v).shiftLength = s.shiftLength := rfl
@[simp] theorem loadExpected_idleClocks (v : List Byte) : (s.loadExpected v).idleClocks = s.idleClocks := rfl
@[simp] theorem loadExpected_inMask (v : List Byte) : (s.loadExpected v).inMask = s.inMask := rfl
@[simp] theorem loadExpected_inData (v : List Byte) : (s.loadExpected v).inData = s.inData := rfl
@[simp] theorem loadExpected_outData (v : List Byte) : (s.loadExpected v).outData = s.outData := rfl
@[simp] theorem loadExpected_expData (v : List Byte) : (s.loadExpected v).expData = s.expData.writeBytes 0 v := rfl
@[simp] theorem loadExpected_lines (v : List Byte) : (s.loadExpected v).lines = s.lines := rfl
@[simp] theorem loadExpected_trace (v : List Byte) : (s.loadExpected v).trace = s.trace := rfl
@[simp] theorem loadExpected_status (v : List Byte) : (s.loadExpected v).status = s.status := rfl
@[simp] theorem loadExpected_tdoNext (v : List Byte) : (s.loadExpected v).tdoNext = s.tdoNext := rfl
@[simp] theorem loadExpected_tdoDraws (v : List Byte) : (s.loadExpected v).tdoDraws = s.tdoDraws := rfl
@[simp] theorem loadExpected_hangsAt (v : List Byte) : (s.loadExpected v).hangsAt = s.hangsAt := rfl

/-! ### perform -/

@[simp] theorem perform_cfg (es : List PinEvent) : (s.perform es).cfg = s.cfg := rfl
@[simp] theorem perform_prog (es : List PinEvent) : (s.perform es).prog = s.prog := rfl
@[simp] theorem perform_progLen (es : List PinEvent) : (s.perform es).progLen = s.progLen := rfl
@[simp] theorem perform_prologueDone (es : List PinEvent) : (s.perform es).prologueDone = s.prologueDone := rfl
@[simp] theorem perform_pc (es : List PinEvent) : (s.perform es).pc = s.pc := rfl
@[simp] theorem perform_shiftLength (es : List PinEvent) : (s.perform es).shiftLength = s.shiftLength := rfl
@[simp] theorem perform_idleClocks (es : List PinEvent) : (s.perform es).idleClocks = s.idleClocks := rfl
@[simp] theorem perform_inMask (es : List PinEvent) : (s.perform es).inMask = s.inMask := rfl
@[simp] theorem perform_inData (es : List PinEvent) : (s.perform es).inData = s.inData := rfl
@[simp] theorem perform_outData (es : List PinEvent) : (s.perform es).outData = s.outData := rfl
@[simp] theorem perform_expData (es : List PinEvent) : (s.perform es).expData = s.expData := rfl
@[simp] theorem perform_lines (es : List PinEvent) : (s.perform es).lines = linesAfter s.lines es := rfl
@[simp] theorem perform_trace (es : List PinEvent) : (s.perform es).trace = s.trace ++ es := rfl
@[simp] theorem perform_status (es : List PinEvent) : (s.perform es).status = s.status := rfl
@[simp] theorem perform_tdoNext (es : List PinEvent) : (s.perform es).tdoNext = s.tdoNext := rfl
@[simp] theorem perform_tdoDraws (es : List PinEvent) : (s.perform es).tdoDraws = s.tdoDraws := rfl
@[simp] theorem perform_hangsAt (es : List PinEvent) : (s.perform es).hangsAt = s.hangsAt := rfl

/-! ### Derived operations -/

@[simp] theorem raise_eq (r : Result) : s.raise r = s.setStatus (.done r) := rfl
@[simp] theorem finish_eq : s.finish = s.setStatus (.done .success) := rfl
@[simp] theorem refuse_eq (r : RefuseReason) : s.refuse r = s.setStatus (.refused r) := rfl
@[simp] theorem pulse_eq : s.pulse = (s.pinTck true).pinTck false := rfl
@[simp] theorem loadPairs_eq (ps : List (Byte × Byte)) :
    s.loadPairs ps = (s.loadData (ps.map Prod.fst)).loadExpected (ps.map Prod.snd) := rfl
@[simp] theorem sampleInto_eq (k : Nat) :
    s.sampleInto k = s.sampleTdo.setOutData (s.outData.orBit k (s.draw 0)) := rfl
@[simp] theorem clearOut_eq (n : Nat) :
    s.clearOut n = s.setOutData (s.outData.writeBytes 0 (List.replicate (ceil8 n) 0)) := rfl

end Sys2Proof.Machine.State
end

