-- ==== Sys2Proof/Laws/Kernels.lean ====
section
/-! SUPPORT. What each kernel does, once: the events it performs, and the buffer and the answers a sampling shift uses. Later
proofs cite these and do not unfold a kernel. -/

namespace Sys2Proof.Machine

variable (s : State)

/-! ### Performing events -/

@[simp] theorem linesAfter_append (l : Lines) (es fs : List PinEvent) :
    linesAfter l (es ++ fs) = linesAfter (linesAfter l es) fs := List.foldl_append

theorem State.perform_append (es fs : List PinEvent) : s.perform (es ++ fs) = (s.perform es).perform fs := by
  simp [State.perform]

@[simp] theorem State.perform_nil : s.perform [] = s := by simp [State.perform, linesAfter]

theorem State.pinTck_eq (b : Bool) : s.pinTck b = s.perform [.tck b] := rfl
theorem State.pinTms_eq (b : Bool) : s.pinTms b = s.perform [.tms b] := rfl
theorem State.pinTdi_eq (b : Bool) : s.pinTdi b = s.perform [.tdi b] := rfl

theorem State.pulse_perform : s.pulse = s.perform pulseEvents := by
  simp [pinTck_eq, pulseEvents, ← State.perform_append]

theorem State.clockBit_eq (last : Bool) :
    s.clockBit last = s.perform ((if last then [.tms true] else []) ++ pulseEvents) := by
  cases last
  · rw [State.clockBit, State.pulse_perform]; rfl
  · rw [State.clockBit, State.pulse_perform, State.perform_append]; rfl

/-! ### Kernels without samples -/

theorem fsmEvents_succ (p : U32) (n : Nat) :
    fsmEvents p (n + 1) = .tms (p.getLsbD 0) :: (pulseEvents ++ fsmEvents (p >>> 1) n) := by
  simp [fsmEvents, List.range_succ_eq_map, List.flatMap_map, Nat.add_comm 1]

/-- clock-FSM performs its events and nothing else (R100). -/
theorem clockFsm_eq (p : U32) (n : Nat) : clockFsm p n s = s.perform (fsmEvents p n) := by
  induction n generalizing p s with
  | zero => simp [clockFsm, fsmEvents]
  | succ n ih =>
    rw [clockFsm, ih, State.pulse_perform, State.pinTms_eq, fsmEvents_succ, ← State.perform_append,
      ← State.perform_append]
    rfl

theorem State.transition_eq (t : Transition) : s.transition t = s.perform (transitionEvents t) := clockFsm_eq s _ _

theorem idleEvents_succ (n : Nat) : idleEvents (n + 1) = pulseEvents ++ idleEvents n := by
  simp [idleEvents, List.range_succ_eq_map, List.flatMap_map]

/-- idle-clocks performs its pulses and nothing else (R102). -/
theorem pulses_eq (n : Nat) : pulses n s = s.perform (idleEvents n) := by
  induction n generalizing s with
  | zero => simp [pulses, idleEvents]
  | succ n ih => rw [pulses, ih, State.pulse_perform, idleEvents_succ, State.perform_append]

theorem State.idlePulses_eq : s.idlePulses = s.perform (idleEvents s.idleClocks.toNat) := by
  unfold State.idlePulses
  split
  · exact pulses_eq s _
  · rename_i h
    have h0 : s.idleClocks = 0 := by simpa using h
    simp [h0, idleEvents]

/-- The end of a scan performs the exit transition and the idle pulses (R115, R116). -/
theorem State.leaveShift_eq :
    s.leaveShift = s.perform (transitionEvents s.cfg.seq.exitIdle ++ idleEvents s.idleClocks.toNat) := by
  rw [State.leaveShift, State.transition_eq, State.idlePulses_eq, State.perform_append]
  rfl

/-- The events of shift-in-only from bit `k` with `r` bits to go. -/
theorem shiftInFrom_eq (buf : Memory) (k r : Nat) :
    shiftInFrom buf k r s = s.perform ((List.range' k r).flatMap fun i =>
      .tdi (buf.bit i) :: (finalTms (k + r) i ++ pulseEvents)) := by
  induction r generalizing k s with
  | zero => simp [shiftInFrom]
  | succ r ih =>
    have hf : (if (r == 0) = true then [PinEvent.tms true] else []) = finalTms (k + (r + 1)) k := by
      unfold finalTms
      cases r with
      | zero => simp
      | succ r => simp
    rw [shiftInFrom, ih, State.clockBit_eq, State.pinTdi_eq, hf, List.range'_succ, List.flatMap_cons,
      ← State.perform_append, ← State.perform_append, show k + 1 + r = k + (r + 1) by omega]
    simp

/-- shift-in-only performs its events and nothing else (R103). -/
theorem shiftInOnly_eq (n : Nat) (buf : Memory) : shiftInOnly n buf s = s.perform (shiftEvents n buf.bit) := by
  rw [shiftInOnly, shiftInFrom_eq, shiftEvents, List.range_eq_range', Nat.zero_add]

/-! ### Answers of the target -/

theorem State.draw_succ (j : Nat) : s.sampleTdo.draw j = s.draw (j + 1) := by
  cases h : s.tdoNext <;>
    simp [State.draw, h, Nat.add_assoc, Nat.add_comm 1]

/-- The state after `n` answers were taken. -/
def State.skipAnswers (n : Nat) (s : State) : State :=
  { s with tdoNext := s.tdoNext.drop n, tdoDraws := s.tdoDraws + n }

@[simp] theorem State.skipAnswers_cfg (n : Nat) : (s.skipAnswers n).cfg = s.cfg := rfl
@[simp] theorem State.skipAnswers_prog (n : Nat) : (s.skipAnswers n).prog = s.prog := rfl
@[simp] theorem State.skipAnswers_progLen (n : Nat) : (s.skipAnswers n).progLen = s.progLen := rfl
@[simp] theorem State.skipAnswers_prologueDone (n : Nat) : (s.skipAnswers n).prologueDone = s.prologueDone := rfl
@[simp] theorem State.skipAnswers_pc (n : Nat) : (s.skipAnswers n).pc = s.pc := rfl
@[simp] theorem State.skipAnswers_shiftLength (n : Nat) : (s.skipAnswers n).shiftLength = s.shiftLength := rfl
@[simp] theorem State.skipAnswers_idleClocks (n : Nat) : (s.skipAnswers n).idleClocks = s.idleClocks := rfl
@[simp] theorem State.skipAnswers_inMask (n : Nat) : (s.skipAnswers n).inMask = s.inMask := rfl
@[simp] theorem State.skipAnswers_inData (n : Nat) : (s.skipAnswers n).inData = s.inData := rfl
@[simp] theorem State.skipAnswers_outData (n : Nat) : (s.skipAnswers n).outData = s.outData := rfl
@[simp] theorem State.skipAnswers_expData (n : Nat) : (s.skipAnswers n).expData = s.expData := rfl
@[simp] theorem State.skipAnswers_lines (n : Nat) : (s.skipAnswers n).lines = s.lines := rfl
@[simp] theorem State.skipAnswers_trace (n : Nat) : (s.skipAnswers n).trace = s.trace := rfl
@[simp] theorem State.skipAnswers_status (n : Nat) : (s.skipAnswers n).status = s.status := rfl
@[simp] theorem State.skipAnswers_tdoNext (n : Nat) : (s.skipAnswers n).tdoNext = s.tdoNext.drop n := rfl
@[simp] theorem State.skipAnswers_tdoDraws (n : Nat) : (s.skipAnswers n).tdoDraws = s.tdoDraws + n := rfl
@[simp] theorem State.skipAnswers_hangsAt (n : Nat) : (s.skipAnswers n).hangsAt = s.hangsAt := rfl

theorem State.draw_skipAnswers (n j : Nat) : (s.skipAnswers n).draw j = s.draw (n + j) := by
  simp [State.draw, State.skipAnswers, Nat.add_assoc, List.getD_eq_getElem?_getD]

theorem State.skipAnswers_skipAnswers (m n : Nat) : (s.skipAnswers m).skipAnswers n = s.skipAnswers (m + n) := by
  simp [State.skipAnswers, Nat.add_assoc]

theorem State.skipAnswers_perform (es : List PinEvent) (n : Nat) :
    (s.perform es).skipAnswers n = (s.skipAnswers n).perform es := rfl
theorem State.setOutData_perform (es : List PinEvent) (m : Memory) :
    (s.perform es).setOutData m = (s.setOutData m).perform es := rfl
theorem State.skipAnswers_setOutData (m : Memory) (n : Nat) :
    (s.setOutData m).skipAnswers n = (s.skipAnswers n).setOutData m := rfl
theorem State.setOutData_setOutData (m m' : Memory) : (s.setOutData m).setOutData m' = s.setOutData m' := rfl

@[simp] theorem State.draw_perform (es : List PinEvent) (j : Nat) : (s.perform es).draw j = s.draw j := rfl
@[simp] theorem State.draw_setOutData (m : Memory) (j : Nat) : (s.setOutData m).draw j = s.draw j := rfl

/-- `r` sampled bits ORed into a buffer from bit `k` on (R105). -/
def orBits (answer : Nat → Bool) (k : Nat) : Nat → Memory → Memory
  | 0, m => m
  | r + 1, m => orBits (fun j => answer (j + 1)) (k + 1) r (m.orBit k (answer 0))

/-- shift-in-out from bit `k`: its events, the answers it takes, and the bits it stores. -/
theorem shiftInOutFrom_eq (buf : Memory) (k r : Nat) :
    shiftInOutFrom buf k r s = (((s.skipAnswers r).setOutData (orBits s.draw k r s.outData)).perform
      ((List.range r).flatMap fun i =>
        .tdi (buf.bit (k + i)) :: .tdo (s.draw i) :: (finalTms (k + r) (k + i) ++ pulseEvents))) := by
  induction r generalizing k s with
  | zero => simp [shiftInOutFrom, State.skipAnswers, orBits, State.setOutData]
  | succ r ih =>
    have hf : (if (r == 0) = true then [PinEvent.tms true] else []) = finalTms (k + (r + 1)) k := by
      unfold finalTms
      cases r with
      | zero => simp
      | succ r => simp
    have hbit : ((s.pinTdi (buf.bit k)).sampleInto k).clockBit (r == 0) =
        ((s.skipAnswers 1).setOutData (s.outData.orBit k (s.draw 0))).perform
          (.tdi (buf.bit k) :: .tdo (s.draw 0) :: (finalTms (k + (r + 1)) k ++ pulseEvents)) := by
      have hs : (s.pinTdi (buf.bit k)).sampleInto k =
          ((s.skipAnswers 1).setOutData (s.outData.orBit k (s.draw 0))).perform [.tdi (buf.bit k), .tdo (s.draw 0)] := by
        simp [State.perform, State.skipAnswers, State.setOutData, State.pinTdi, State.sampleTdo, State.draw, linesAfter]
      rw [State.clockBit_eq, hf, hs, ← State.perform_append]
      rfl
    have hd : (((s.skipAnswers 1).setOutData (s.outData.orBit k (s.draw 0))).perform
        (.tdi (buf.bit k) :: .tdo (s.draw 0) :: (finalTms (k + (r + 1)) k ++ pulseEvents))).draw =
          fun j => s.draw (j + 1) := by
      funext j
      rw [State.draw_perform, State.draw_setOutData, State.draw_skipAnswers, Nat.add_comm]
    rw [shiftInOutFrom, ih, hbit, hd, State.skipAnswers_perform, State.setOutData_perform, ← State.perform_append,
      State.skipAnswers_setOutData, State.setOutData_setOutData, State.skipAnswers_skipAnswers, Nat.add_comm 1 r,
      List.range_succ_eq_map, List.flatMap_cons, List.flatMap_map]
    simp only [show ∀ i, k + 1 + i = k + (i + 1) from fun i => by omega, Nat.add_zero, Nat.succ_eq_add_one]
    rfl

end Sys2Proof.Machine
end

