-- ==== Sys2Proof/Laws/Compare.lean ====
section
/-! SUPPORT. What a sampling scan leaves in `outData`, and what the retry loop can do: stop at the first attempt that matches, or
raise the mismatch when none does. -/

namespace Sys2Proof.Machine

theorem getLsbD_bitByte (b : Bool) (j i : Nat) (hi : i < 8) : (bitByte b j).getLsbD i = (decide (i = j) && b) := by
  rw [bitByte, BitVec.getLsbD_shiftLeft, BitVec.getLsbD_setWidth, BitVec.getLsbD_ofBool]
  by_cases h : i < j
  · simp [h]; omega
  · by_cases h2 : i = j
    · subst h2; simp [hi]
    · have : i - j ≠ 0 := by omega
      simp [h2, this, hi]

theorem Memory.bit_orBit (m : Memory) (k : Nat) (b : Bool) (x : Nat) :
    (m.orBit k b).bit x = (m.bit x || (decide (x = k) && b)) := by
  unfold Memory.orBit Memory.bit
  rw [Memory.read_write]
  have hx : x % 8 < 8 := Nat.mod_lt _ (by omega)
  by_cases h : x / 8 = k / 8
  · rw [if_pos h, BitVec.getLsbD_or, getLsbD_bitByte _ _ _ hx, h]
    have : (x % 8 = k % 8) ↔ x = k := by omega
    simp [this]
  · have : x ≠ k := fun e => h (by rw [e])
    simp [h, this]

/-- Bit by bit, what ORing `r` samples in from bit `k` gives. -/
theorem bit_orBits (answer : Nat → Bool) (k r : Nat) (m : Memory) (x : Nat) :
    (orBits answer k r m).bit x = (m.bit x || (decide (k ≤ x ∧ x < k + r) && answer (x - k))) := by
  induction r generalizing answer k m with
  | zero =>
    have : ¬ (k ≤ x ∧ x < k) := by omega
    simp [orBits, this]
  | succ r ih =>
    rw [orBits, ih, Memory.bit_orBit]
    rcases Nat.lt_trichotomy x k with h | h | h
    · have h1 : ¬ k + 1 ≤ x := by omega
      have h2 : ¬ k ≤ x := by omega
      have h3 : x ≠ k := by omega
      simp [h1, h2, h3]
    · subst h; simp
    · have h1 : k + 1 ≤ x := h
      have h2 : k ≤ x := by omega
      have h3 : x ≠ k := by omega
      have h4 : x - (k + 1) + 1 = x - k := by omega
      have h5 : (x < k + 1 + r) ↔ x < k + (r + 1) := by omega
      simp [h1, h2, h3, h4, h5]

theorem Memory.getLsbD_read (m : Memory) (a j : Nat) (hj : j < 8) : (m.read a).getLsbD j = m.bit (8 * a + j) := by
  unfold Memory.bit
  rw [show (8 * a + j) / 8 = a by omega, show (8 * a + j) % 8 = j by omega]

theorem getLsbD_sampledByte (n : Nat) (answer : Nat → Bool) (i j : Nat) (hj : j < 8) :
    (sampledByte n answer i).getLsbD j = (decide (8 * i + j < n) && answer (8 * i + j)) := by
  rw [sampledByte, BitVec.getLsbD_ofFnLE, dif_pos hj]

/-- The sample buffer of a shift of `n` bits: cleared bytes with the samples ORed in (R105). -/
def sampledOut (n : Nat) (answer : Nat → Bool) (m : Memory) : Memory :=
  orBits answer 0 n (m.writeBytes 0 (List.replicate (ceil8 n) 0))

/-- Byte by byte, the sample buffer after a shift: the sampled bytes, and the bytes above them as before (R105). -/
theorem read_sampledOut (n : Nat) (answer : Nat → Bool) (m : Memory) (a : Nat) :
    (sampledOut n answer m).read a = if a < ceil8 n then sampledByte n answer a else m.read a := by
  have hc : (m.writeBytes 0 (List.replicate (ceil8 n) 0)).read a = if a < ceil8 n then 0 else m.read a := by
    rw [Memory.read_writeBytes]
    by_cases h : a < ceil8 n <;> simp [h]
  refine BitVec.eq_of_getLsbD_eq fun j hj => ?_
  rw [Memory.getLsbD_read _ _ _ hj, sampledOut, bit_orBits, ← Memory.getLsbD_read _ _ _ hj, hc]
  by_cases h : a < ceil8 n
  · simp [h, getLsbD_sampledByte _ _ _ _ hj]
  · have : ¬ 8 * a + j < n := by unfold ceil8 at h; omega
    simp [h, this]

variable (s : State)

/-- shift-in-out performs its events, takes `n` answers and fills the sample buffer, and nothing else (R105). -/
theorem shiftInOut_eq (n : Nat) (buf : Memory) :
    shiftInOut n buf s = ((s.skipAnswers n).setOutData (sampledOut n s.draw s.outData)).perform
      (sampleEvents n buf.bit s.draw) := by
  rw [shiftInOut, shiftInOutFrom_eq, State.clearOut_eq]
  simp only [Nat.zero_add]
  rfl

/-- scanIR (R115). -/
theorem scanIr_eq (n : Nat) : scanIr n s = s.perform
    (scanEvents s.cfg.seq.enterSir s.cfg.seq.exitIdle (shiftEvents n s.inData.bit) s.idleClocks) := by
  rw [scanIr, State.leaveShift_eq, shiftInOnly_eq, State.transition_eq, scanEvents]
  simp only [State.perform_append]
  rfl

/-- scanDR without samples (R116). -/
theorem scanDrOnly_eq (n : Nat) : scanDrOnly n s = s.perform
    (scanEvents s.cfg.seq.enterSdr s.cfg.seq.exitIdle (shiftEvents n s.inData.bit) s.idleClocks) := by
  rw [scanDrOnly, State.leaveShift_eq, shiftInOnly_eq, State.transition_eq, scanEvents]
  simp only [State.perform_append]
  rfl

/-- scanDR with samples (R116). -/
theorem scanDrSample_eq (n : Nat) :
    scanDrSample n s = ((s.skipAnswers n).setOutData (sampledOut n s.draw s.outData)).perform
      (scanEvents s.cfg.seq.enterSdr s.cfg.seq.exitIdle (sampleEvents n s.inData.bit s.draw) s.idleClocks) := by
  rw [scanDrSample, State.leaveShift_eq, shiftInOut_eq, State.transition_eq, scanEvents]
  simp only [State.perform_append]
  rfl

/-- The state after `a` attempts, whatever they sampled. -/
def afterAttempts (bits : Nat) : Nat → State → State
  | 0, s => s
  | a + 1, s => afterAttempts bits a (scanDrSample bits s)

theorem afterAttempts_succ (bits a : Nat) :
    afterAttempts bits (a + 1) s = scanDrSample bits (afterAttempts bits a s) := by
  induction a generalizing s with
  | zero => rfl
  | succ a ih => rw [afterAttempts, ih]; rfl

/-- What the retry loop can do with `r` attempts: it stops at the first that matches, or raises after all have failed
(R173, R178). -/
theorem attempts_cases (bits m r : Nat) :
    (∃ a, a < r ∧ (∀ b < a, (afterAttempts bits (b + 1) s).compareMatches m = false) ∧
      (afterAttempts bits (a + 1) s).compareMatches m = true ∧ attempts bits m r s = afterAttempts bits (a + 1) s) ∨
    ((∀ b < r, (afterAttempts bits (b + 1) s).compareMatches m = false) ∧
      attempts bits m r s =
        (afterAttempts bits r s).setStatus (.done ((afterAttempts bits r s).mismatchOutcome m))) := by
  induction r generalizing s with
  | zero => exact .inr ⟨by simp, rfl⟩
  | succ r ih =>
    by_cases h : (scanDrSample bits s).compareMatches m = true
    · exact .inl ⟨0, by omega, by simp, h, by simp [attempts, h]; rfl⟩
    · have h' : (scanDrSample bits s).compareMatches m = false := by simpa using h
      rcases ih (scanDrSample bits s) with ⟨a, ha, hb, hm, he⟩ | ⟨hb, he⟩
      · refine .inl ⟨a + 1, by omega, fun b hlt => ?_, hm, by simp [attempts, h', he]; rfl⟩
        cases b with
        | zero => exact h'
        | succ b => exact hb b (by omega)
      · refine .inr ⟨fun b hlt => ?_, by simp only [attempts, h', he]; rfl⟩
        cases b with
        | zero => exact h'
        | succ b => exact hb b (by omega)

/-- After `a + 1` attempts: the answers taken, the samples of the last attempt, and the events of all; every other field is as
before the first (R172, R176). -/
theorem afterAttempts_eq (bits a : Nat) :
    ∃ out : Memory, afterAttempts bits (a + 1) s = ((s.skipAnswers ((a + 1) * bits)).setOutData out).perform
        ((List.range (a + 1)).flatMap fun b => scanEvents s.cfg.seq.enterSdr s.cfg.seq.exitIdle
          (sampleEvents bits s.inData.bit (s.attemptAnswer bits b)) s.idleClocks) ∧
      ∀ x, out.read x = if x < ceil8 bits then sampledByte bits (s.attemptAnswer bits a) x else s.outData.read x := by
  induction a with
  | zero =>
    refine ⟨sampledOut bits s.draw s.outData, ?_, fun x => ?_⟩
    · have h0 : s.attemptAnswer bits 0 = s.draw := by funext j; simp [State.attemptAnswer]
      simp [afterAttempts, scanDrSample_eq, h0]
    · have h0 : s.attemptAnswer bits 0 = s.draw := by funext j; simp [State.attemptAnswer]
      rw [read_sampledOut, h0]
  | succ a ih =>
    obtain ⟨out, he, hr⟩ := ih
    refine ⟨sampledOut bits (s.attemptAnswer bits (a + 1)) out, ?_, fun x => ?_⟩
    · have hd : (afterAttempts bits (a + 1) s).draw = s.attemptAnswer bits (a + 1) := by
        funext j
        rw [he, State.draw_perform, State.draw_setOutData, State.draw_skipAnswers, State.attemptAnswer]
      rw [afterAttempts_succ, scanDrSample_eq, hd, he, List.range_succ (n := a + 1), List.flatMap_append]
      generalize (List.range (a + 1)).flatMap _ = es
      rw [State.perform_append, State.skipAnswers_perform, State.setOutData_perform, State.skipAnswers_setOutData,
        State.setOutData_setOutData, State.skipAnswers_skipAnswers, Nat.succ_mul (a + 1) bits, List.flatMap_cons,
        List.flatMap_nil, List.append_nil]
      rfl
    · rw [read_sampledOut, hr]
      by_cases h : x < ceil8 bits <;> simp [h]

end Sys2Proof.Machine
end

