-- ==== Sys2Proof/Laws/Decode.lean ====
section
/-! SUPPORT. The small lemmas of the decoder and the encoder: operand bytes taken and put back. -/

namespace Sys2Proof

open Machine (be32 be32Bytes ceil8)

@[simp] theorem takeBytes_append (v rest : List Byte) : takeBytes v.length (v ++ rest) = some (v, rest) := by
  simp [takeBytes]

theorem takeBytes_append_of_length {n : Nat} {v : List Byte} (h : v.length = n) (rest : List Byte) :
    takeBytes n (v ++ rest) = some (v, rest) := h ▸ takeBytes_append v rest

/-- What `takeBytes` answers: the bytes split in two, or fewer bytes than asked for. -/
theorem takeBytes_cases (n : Nat) (bs : List Byte) :
    (∃ v rest, takeBytes n bs = some (v, rest) ∧ bs = v ++ rest ∧ v.length = n) ∨
      (takeBytes n bs = none ∧ bs.length < n) := by
  unfold takeBytes
  split
  · rename_i h
    exact .inl ⟨_, _, rfl, (List.take_append_drop n bs).symm, by simpa using h⟩
  · exact .inr ⟨rfl, by omega⟩

@[simp] theorem pairUp_interleave (ps : List (Byte × Byte)) : pairUp (interleave ps) = ps := by
  induction ps with
  | nil => rfl
  | cons p ps ih => simp [interleave, pairUp, ih]

@[simp] theorem length_interleave (ps : List (Byte × Byte)) : (interleave ps).length = 2 * ps.length := by
  induction ps with
  | nil => rfl
  | cons p ps ih => simp [interleave, ih]; omega

/-- An even number of bytes is its pairs, interleaved. -/
theorem interleave_pairUp : ∀ (m : Nat) (v : List Byte), v.length = 2 * m →
    interleave (pairUp v) = v ∧ (pairUp v).length = m
  | 0, [], _ => ⟨rfl, rfl⟩
  | m + 1, d :: e :: v, h => by
    have ih := interleave_pairUp m v (by simp at h; omega)
    simp [pairUp, interleave, ih]
  | _ + 1, [_], h => by simp at h; omega
  | _ + 1, [], h => by simp at h

/-- The value of a big-endian count (00_scope.md R10). -/
theorem toNat_be32 (b0 b1 b2 b3 : Byte) :
    (be32 b0 b1 b2 b3).toNat = b0.toNat * 2 ^ 24 + b1.toNat * 2 ^ 16 + b2.toNat * 2 ^ 8 + b3.toNat := by
  have h : ∀ {n : Nat} (x : BitVec n) (m : Nat) (y : BitVec m), (x ++ y).toNat = x.toNat * 2 ^ m + y.toNat := by
    intro n x m y
    rw [BitVec.toNat_append, ← Nat.shiftLeft_add_eq_or_of_lt y.isLt, Nat.shiftLeft_eq]
  have h1 := h (b0 ++ b1) 16 (b2 ++ b3)
  rw [h b0 8 b1, h b2 8 b3] at h1
  refine h1.trans ?_
  omega

theorem be32Bytes_be32 (b0 b1 b2 b3 : Byte) : be32Bytes (be32 b0 b1 b2 b3) = [b0, b1, b2, b3] := by
  have h0 := b0.isLt; have h1 := b1.isLt; have h2 := b2.isLt; have h3 := b3.isLt
  simp only [be32Bytes, List.cons.injEq, and_true]
  refine ⟨?_, ?_, ?_, ?_⟩ <;> apply BitVec.eq_of_toNat_eq <;>
    rw [BitVec.extractLsb'_toNat, toNat_be32, Nat.shiftRight_eq_div_pow] <;> omega

theorem be32_extract (c : U32) :
    be32 (c.extractLsb' 24 8) (c.extractLsb' 16 8) (c.extractLsb' 8 8) (c.extractLsb' 0 8) = c := by
  have h := c.isLt
  apply BitVec.eq_of_toNat_eq
  rw [toNat_be32]
  simp only [BitVec.extractLsb'_toNat, Nat.shiftRight_eq_div_pow]
  omega

/-- The seven opcode values differ pairwise where the table is distinct (30_encoding.md R73). -/
theorem opcDistinct_ne {o : OpcTable} (h : Machine.opcDistinct o = true) :
    (o.complete ≠ o.declareTdoMask ∧ o.complete ≠ o.shiftInstruction ∧ o.complete ≠ o.shiftData ∧
      o.complete ≠ o.declareRunTest ∧ o.complete ≠ o.declareShiftSize ∧ o.complete ≠ o.shiftDataCompare) ∧
    (o.declareTdoMask ≠ o.shiftInstruction ∧ o.declareTdoMask ≠ o.shiftData ∧ o.declareTdoMask ≠ o.declareRunTest ∧
      o.declareTdoMask ≠ o.declareShiftSize ∧ o.declareTdoMask ≠ o.shiftDataCompare) ∧
    (o.shiftInstruction ≠ o.shiftData ∧ o.shiftInstruction ≠ o.declareRunTest ∧
      o.shiftInstruction ≠ o.declareShiftSize ∧ o.shiftInstruction ≠ o.shiftDataCompare) ∧
    (o.shiftData ≠ o.declareRunTest ∧ o.shiftData ≠ o.declareShiftSize ∧ o.shiftData ≠ o.shiftDataCompare) ∧
    (o.declareRunTest ≠ o.declareShiftSize ∧ o.declareRunTest ≠ o.shiftDataCompare) ∧
    o.declareShiftSize ≠ o.shiftDataCompare := by
  have hd : (Machine.opcValues o).Nodup := of_decide_eq_true h
  simpa only [Machine.opcValues, List.nodup_cons, List.mem_cons, List.not_mem_nil, or_false, not_or, List.nodup_nil,
    and_true, not_false_eq_true] using hd

end Sys2Proof
end

