-- ==== Sys2Proof/Laws/Fetch.lean ====
section
/-! SUPPORT. The program bytes from an offset on: the first byte and the rest, the bytes an operand takes, and the program a
playback starts with. -/

namespace Sys2Proof.Machine

theorem Memory.readBytes_succ (m : Memory) (a n : Nat) : m.readBytes a (n + 1) = m.read a :: m.readBytes (a + 1) n := by
  simp [Memory.readBytes, List.range_succ_eq_map, Nat.add_assoc, Nat.add_comm 1]

theorem Memory.readBytes_append (m : Memory) (a n k : Nat) :
    m.readBytes a (n + k) = m.readBytes a n ++ m.readBytes (a + n) k := by
  simp [Memory.readBytes, List.range_add, Function.comp_def, Nat.add_assoc]

@[simp] theorem Memory.length_readBytes (m : Memory) (a n : Nat) : (m.readBytes a n).length = n := by
  simp [Memory.readBytes]

variable (s : State)

@[simp] theorem State.length_programFrom (a : Nat) : (s.programFrom a).length = s.progLen - a := by
  simp [State.programFrom]

theorem State.programFrom_nil {a : Nat} (h : s.progLen ≤ a) : s.programFrom a = [] := by
  rw [State.programFrom, Nat.sub_eq_zero_of_le h]
  rfl

theorem State.programFrom_cons {a : Nat} (h : a < s.progLen) :
    s.programFrom a = s.prog.read a :: s.programFrom (a + 1) := by
  rw [State.programFrom, show s.progLen - a = (s.progLen - (a + 1)) + 1 by omega, Memory.readBytes_succ]
  rfl

/-- An operand of `n` bytes at offset `a`: those bytes where they lie in the program (20_memory.md R53). -/
theorem State.takeBytes_programFrom (a n : Nat) : takeBytes n (s.programFrom a) =
    if a + n ≤ s.progLen ∨ n = 0 then some (s.prog.readBytes a n, s.programFrom (a + n)) else none := by
  by_cases h : a + n ≤ s.progLen
  · rw [if_pos (.inl h)]
    have : s.programFrom a = s.prog.readBytes a n ++ s.programFrom (a + n) := by
      rw [State.programFrom, show s.progLen - a = n + (s.progLen - (a + n)) by omega, Memory.readBytes_append]
      rfl
    rw [this, takeBytes_append_of_length (Memory.length_readBytes _ _ _)]
  · by_cases h0 : n = 0
    · subst h0
      rw [if_pos (.inr rfl), takeBytes, if_pos (Nat.zero_le _)]
      rfl
    · rw [if_neg (by omega), takeBytes, if_neg]
      simp
      omega

/-- What the decoder finds where no byte is left. -/
theorem State.fetch_end (h : s.progLen ≤ s.pc) : s.fetch = .failed .missingOpcode := by
  rw [State.fetch, State.programFrom_nil s h]
  rfl

/-- A playback's program bytes are the bytes the host gave (R52). -/
theorem State.programFrom_playback (cfg : Config) (program : List Byte) (answers : List Bool) :
    (State.playback cfg program answers).programFrom 0 = program := by
  apply List.ext_getElem
  · simp [State.playback]
  · intro i h1 h2
    simp only [State.programFrom, State.playback, Memory.readBytes, List.getElem_map, List.getElem_range,
      Memory.read_writeBytes]
    simp [h2]

end Sys2Proof.Machine
end

