-- ==== Sys2Proof/Laws/Exec.lean ====
section
/-! SUPPORT. What each record can do when it answers a next state, once per record, and what a step can do: the inversion lemmas that
invariants and frames cite. -/

namespace Sys2Proof.Machine

variable {s t : State}

theorem State.withRoom_next {m : Nat} {act : StepOutcome} (h : s.withRoom m act = .next t) :
    m ≤ s.cfg.bufCap ∧ act = .next t := by
  unfold State.withRoom at h
  split at h
  · exact ⟨‹_›, h⟩
  · cases h

theorem State.refusesShift_iff {bits : Nat} : s.refusesShift bits = true ↔ bits = 0 ∧ s.cfg.zeroShift = .refuse := by
  simp [State.refusesShift]

theorem State.exceedsCapacity_iff {bits : Nat} : s.exceedsCapacity bits = true ↔ 8 * s.cfg.bufCap < bits := by
  rw [State.exceedsCapacity, decide_eq_true_iff]
  rfl

theorem execComplete_next (h : exec .complete s = .next t) : t = (s.advance 1).setStatus (.done .success) := by
  cases h; rfl

theorem execDeclareTdoMask_next {v : List Byte} (h : exec (.declareTdoMask v) s = .next t) :
    v.length ≤ s.cfg.bufCap ∧ t = (s.loadMask v).advance (1 + v.length) := by
  obtain ⟨hm, ha⟩ := State.withRoom_next h
  cases ha
  exact ⟨hm, rfl⟩

theorem execDeclareRunTest_next {c : U32} (h : exec (.declareRunTest c) s = .next t) :
    t = (s.setIdleClocks c).advance 5 := by
  cases h; rfl

theorem execDeclareShiftSize_next {c : U32} (h : exec (.declareShiftSize c) s = .next t) :
    (s.capacityBits < c.toNat ∧ t = s.setStatus (.done (.capacity c.toNat))) ∨
      (c.toNat ≤ s.capacityBits ∧ t = (s.setShiftLength c).advance 5) := by
  simp only [exec, execDeclareShiftSize, State.exceedsCapacity, decide_eq_true_eq] at h
  split at h
  · cases h; exact .inl ⟨‹_›, rfl⟩
  · cases h; exact .inr ⟨by omega, rfl⟩

theorem execShiftInstruction_next {n : BitVec 8} {v : List Byte} (h : exec (.shiftInstruction n v) s = .next t) :
    (s.capacityBits < n.toNat ∧ t = s.setStatus (.done (.capacity n.toNat))) ∨
    (n.toNat = 0 ∧ s.cfg.zeroShift = .refuse ∧
      t = s.setStatus (.refused (.zeroLengthShift s.cfg.opc.shiftInstruction s.pc))) ∨
    (n.toNat ≤ s.capacityBits ∧ ¬ (n.toNat = 0 ∧ s.cfg.zeroShift = .refuse) ∧ v.length ≤ s.cfg.bufCap ∧
      t = ((s.loadData v).advance (2 + v.length)).perform (scanEvents s.cfg.seq.enterSir s.cfg.seq.exitIdle
        (shiftEvents n.toNat (s.loadData v).inData.bit) s.idleClocks)) := by
  simp only [exec, execShiftInstruction, State.exceedsCapacity, decide_eq_true_eq, State.refusesShift_iff] at h
  split at h
  · cases h; exact .inl ⟨‹_›, rfl⟩
  · split at h
    · rename_i hz; cases h; exact .inr (.inl ⟨hz.1, hz.2, rfl⟩)
    · obtain ⟨hm, ha⟩ := State.withRoom_next h
      cases ha
      exact .inr (.inr ⟨by omega, ‹_›, hm, scanIr_eq _ _⟩)

theorem execShiftData_next {v : List Byte} (h : exec (.shiftData v) s = .next t) :
    (s.shiftLength.toNat = 0 ∧ s.cfg.zeroShift = .refuse ∧
      t = s.setStatus (.refused (.zeroLengthShift s.cfg.opc.shiftData s.pc))) ∨
    (¬ (s.shiftLength.toNat = 0 ∧ s.cfg.zeroShift = .refuse) ∧ v.length ≤ s.cfg.bufCap ∧
      t = ((s.loadData v).advance (1 + v.length)).perform (scanEvents s.cfg.seq.enterSdr s.cfg.seq.exitIdle
        (shiftEvents s.shiftLength.toNat (s.loadData v).inData.bit) s.idleClocks)) := by
  simp only [exec, execShiftData, State.refusesShift_iff] at h
  split at h
  · rename_i hz; cases h; exact .inl ⟨hz.1, hz.2, rfl⟩
  · obtain ⟨hm, ha⟩ := State.withRoom_next h
    cases ha
    exact .inr ⟨‹_›, hm, scanDrOnly_eq _ _⟩

/-- The state a compare record starts its first attempt in. -/
def State.compareLoaded (s : State) (ps : List (Byte × Byte)) : State :=
  ((s.loadData (ps.map Prod.fst)).loadExpected (ps.map Prod.snd)).advance (1 + 2 * ps.length)

theorem execShiftDataCompare_next {ps : List (Byte × Byte)} (h : exec (.shiftDataCompare ps) s = .next t) :
    (s.shiftLength.toNat = 0 ∧ s.cfg.zeroShift = .refuse ∧
      t = s.setStatus (.refused (.zeroLengthShift s.cfg.opc.shiftDataCompare s.pc))) ∨
    (¬ (s.shiftLength.toNat = 0 ∧ s.cfg.zeroShift = .refuse) ∧ ps.length ≤ s.cfg.bufCap ∧
      t = attempts s.shiftLength.toNat ps.length maxAttempts (s.compareLoaded ps)) := by
  simp only [exec, execShiftDataCompare, State.refusesShift_iff] at h
  split at h
  · rename_i hz; cases h; exact .inl ⟨hz.1, hz.2, rfl⟩
  · obtain ⟨hm, ha⟩ := State.withRoom_next h
    cases ha
    exact .inr ⟨‹_›, hm, rfl⟩

/-- After at least one attempt, what the retry loop leaves, apart from what it samples: the attempts' events, the answers they took,
a sample buffer, and either the same status (it stopped on a match) or a mismatch (R176, R177). -/
theorem attempts_next (bits m r : Nat) (s : State) :
    ∃ (a : Nat) (out : Memory) (st : Status),
      attempts bits m (r + 1) s = (((s.skipAnswers ((a + 1) * bits)).setOutData out).perform
        ((List.range (a + 1)).flatMap fun b => scanEvents s.cfg.seq.enterSdr s.cfg.seq.exitIdle
          (sampleEvents bits s.inData.bit (s.attemptAnswer bits b)) s.idleClocks)).setStatus st ∧
      (∀ x, out.read x = if x < ceil8 bits then sampledByte bits (s.attemptAnswer bits a) x else s.outData.read x) ∧
      a ≤ r ∧ (st = s.status ∨ (a = r ∧ ∃ got mask expected, st = .done (.mismatch got mask expected))) := by
  rcases attempts_cases s bits m (r + 1) with ⟨a, ha, -, -, he⟩ | ⟨-, he⟩
  · obtain ⟨out, h1, h2⟩ := afterAttempts_eq s bits a
    exact ⟨a, out, s.status, he.trans (by rw [h1]; rfl), h2, by omega, .inl rfl⟩
  · obtain ⟨out, h1, h2⟩ := afterAttempts_eq s bits r
    exact ⟨r, out, _, he.trans (congrArg (State.setStatus _) h1), h2, le_refl _, .inr ⟨rfl, _, _, _, rfl⟩⟩

/-! ### A pin operation that never returns -/

/-- Where every pin operation returns, waiting for them changes nothing. -/
theorem awaitPins_none (h : s.hangsAt = none) (o : StepOutcome) : awaitPins s o = o := by
  cases o <;> simp [awaitPins, State.hungIn, h]

/-- Where no pin operation is performed, there is none to wait for. -/
theorem awaitPins_quiet (h : t.trace = s.trace) : awaitPins s (.next t) = .next t := by
  have : s.hungIn t = none := by
    cases hn : s.hangsAt with
    | none => simp [State.hungIn, hn]
    | some n => simp [State.hungIn, hn, h]
  simp [awaitPins, this]

/-- A next state answered after waiting is the one answered before. -/
theorem awaitPins_next {o : StepOutcome} (h : awaitPins s o = .next t) : o = .next t := by
  unfold awaitPins at h
  split at h
  · split at h
    · cases h
    · exact h
  · cases h
  · cases h

/-- The operation that never returns stands in the trace after `n` others; the block is stuck with those (R235). -/
theorem hungIn_eq_some {es : List PinEvent} :
    s.hungIn t = some es ↔ ∃ n, s.hangsAt = some n ∧ s.trace.length ≤ n ∧ n < t.trace.length ∧ es = t.trace.take n := by
  simp only [State.hungIn, Option.bind_eq_some_iff, Option.ite_none_right_eq_some, Option.some.injEq]
  constructor
  · rintro ⟨n, hn, ⟨h1, h2⟩, rfl⟩; exact ⟨n, hn, h1, h2, rfl⟩
  · rintro ⟨n, hn, h1, h2, rfl⟩; exact ⟨n, hn, ⟨h1, h2⟩, rfl⟩

/-- The block is stuck where one of the operations performed never returns. -/
theorem awaitPins_hung {n : Nat} (hn : s.hangsAt = some n) (h : s.trace.length ≤ n) (ht : n < t.trace.length) :
    awaitPins s (.next t) = .fault (.pinNeverReturns (t.trace.take n)) := by
  simp [awaitPins, hungIn_eq_some.2 ⟨n, hn, h, ht, rfl⟩]

/-- Where the operation that never returns is still to come, waiting changes nothing. -/
theorem awaitPins_before {n : Nat} (hn : s.hangsAt = some n) (ht : t.trace.length ≤ n) : awaitPins s (.next t) = .next t := by
  cases hh : s.hungIn t with
  | none => simp [awaitPins, hh]
  | some es =>
    obtain ⟨m, hm, -, h, -⟩ := hungIn_eq_some.1 hh
    rw [hn] at hm; cases hm; omega

/-- Waiting answers a stuck block where one of the operations performed never returns, and is otherwise what was answered. -/
theorem awaitPins_eq_fault {es : List PinEvent} (h : awaitPins s (.next t) = .fault (.pinNeverReturns es)) :
    s.hungIn t = some es := by
  unfold awaitPins at h
  cases hh : s.hungIn t with
  | none => simp [hh] at h
  | some es' => simpa [hh] using h

/-- What a step that answers a next state can be: nothing (the playback is done), the start of the playback, a record, or the end of
the playback where the bytes at `pc` are no record. -/
theorem step_next (h : step s = .next t) :
    ((∃ r, s.status = .done r) ∧ t = s) ∨
    (s.status = .running ∧ s.prologueDone = false ∧ t = s.start) ∨
    (s.Ready ∧ ∃ i rest, s.fetch = .record i rest ∧ exec i s = .next t) ∨
    (s.Ready ∧ ∃ e, s.fetch = .failed e ∧ t = s.setStatus (.done (s.decodeOutcome e))) := by
  unfold step at h
  split at h
  · cases h; exact .inl ⟨⟨_, ‹_›⟩, rfl⟩
  · cases h
  · rename_i hr
    replace h := awaitPins_next h
    unfold State.act at h
    split at h
    · rename_i hp
      split at h
      · exact .inr (.inr (.inl ⟨⟨hr, hp⟩, _, _, ‹_›, h⟩))
      · cases h; exact .inr (.inr (.inr ⟨⟨hr, hp⟩, _, ‹_›, rfl⟩))
    · rename_i hp
      cases h; exact .inr (.inl ⟨hr, by simpa using hp, rfl⟩)

/-- What the start of a playback does: it refuses a bad configuration, or it performs the prologue. -/
theorem State.start_cases (s : State) :
    (∃ f, configFault s.cfg = some f ∧ s.start = s.setStatus (.refused (.badConfig f))) ∨
    (configFault s.cfg = none ∧ s.start = (s.perform (transitionEvents s.cfg.seq.resetIdle)).markPrologue) := by
  unfold State.start
  split
  · exact .inl ⟨_, ‹_›, rfl⟩
  · exact .inr ⟨‹_›, by rw [State.prologue, State.transition_eq]⟩

theorem coreRun_of_step (M : Host.Core) {k : Nat} {a b : M.State} (h : M.step a = .next b) :
    M.run (k + 1) a = M.run k b := by
  rw [Host.Core.run, h]

theorem coreRun_succ (M : Host.Core) {k : Nat} {a c : M.State} (h : M.run (k + 1) a = .next c) :
    ∃ b, M.step a = .next b ∧ M.run k b = .next c := by
  rw [Host.Core.run] at h
  split at h
  · exact ⟨_, ‹_›, h⟩
  · cases h
  · cases h

/-- A run whose first step answers a next state goes on from it. -/
theorem run_of_step_next {k : Nat} (h : step s = .next t) :
    Host.Core.run core (k + 1) s = Host.Core.run core k t := coreRun_of_step core h

/-- A run of some steps is a first step that answers a next state, and a run from it. -/
theorem run_succ_next {k : Nat} (h : Host.Core.run core (k + 1) s = .next t) :
    ∃ u : State, step s = .next u ∧ Host.Core.run core k u = .next t := coreRun_succ core h

end Sys2Proof.Machine
end

