-- ==== Sys2Proof/Laws/Observer.lean ====
section
/-! SUPPORT. What an observer of the trace sees after more events: the lines it shows are the lines the events leave, and the TAP
moves once per pulse with the TMS level then driven. -/

namespace Sys2Proof.Machine

/-- The observer after more events. -/
def Observer.seeAll (o : Observer) (es : List PinEvent) : Observer := es.foldl Observer.see o

theorem observe_append (tr es : List PinEvent) : observe (tr ++ es) = (observe tr).seeAll es := List.foldl_append

@[simp] theorem Observer.seeAll_nil (o : Observer) : o.seeAll [] = o := rfl
@[simp] theorem Observer.seeAll_cons (o : Observer) (e : PinEvent) (es : List PinEvent) :
    o.seeAll (e :: es) = (o.see e).seeAll es := rfl
theorem Observer.seeAll_append (o : Observer) (es fs : List PinEvent) :
    o.seeAll (es ++ fs) = (o.seeAll es).seeAll fs := List.foldl_append

theorem Observer.lines_see (o : Observer) (e : PinEvent) : (o.see e).lines = linesAfter o.lines [e] := by
  cases e with
  | tck b => cases b <;> rfl
  | tms b => rfl
  | tdi b => rfl
  | tdo b => rfl

/-- The lines an observer sees are the lines the events leave (10_state.md R33). -/
theorem Observer.lines_seeAll (o : Observer) (es : List PinEvent) : (o.seeAll es).lines = linesAfter o.lines es := by
  induction es generalizing o with
  | nil => rfl
  | cons e es ih => rw [Observer.seeAll_cons, ih, Observer.lines_see]; rfl

/-- Performing events keeps the lines shown by the trace. -/
theorem State.LinesShown.perform {s : State} (h : s.LinesShown) (es : List PinEvent) : (s.perform es).LinesShown := by
  unfold State.LinesShown at *
  show (observe (s.trace ++ es)).lines = linesAfter s.lines es
  rw [observe_append, Observer.lines_seeAll, h]

theorem tapsAfterEdge_length (taps : List TapState) (l : Level) (h : taps.length = 16) :
    (tapsAfterEdge taps l).length = 16 := by
  cases l with
  | unknown => rfl
  | driven b => simpa [tapsAfterEdge] using h

theorem Observer.taps_length_see (o : Observer) (e : PinEvent) (h : o.taps.length = 16) : (o.see e).taps.length = 16 := by
  cases e with
  | tck b =>
    cases b with
    | false => exact h
    | true =>
      unfold Observer.see
      dsimp only
      split
      · exact h
      · exact tapsAfterEdge_length _ _ h
  | tms b => exact h
  | tdi b => exact h
  | tdo b => exact h

/-- An observer holds one TAP state per possible start, sixteen in all. -/
theorem taps_length_observe (tr : List PinEvent) : (observe tr).taps.length = 16 := by
  suffices h : ∀ (o : Observer), o.taps.length = 16 → (o.seeAll tr).taps.length = 16 from h Observer.start rfl
  induction tr with
  | nil => exact fun _ h => h
  | cons e tr ih => exact fun o h => ih _ (Observer.taps_length_see o e h)

/-- A pulse with TCK low and TMS driven moves every possible TAP state once, and changes nothing else but the edges. -/
theorem Observer.taps_pulse (o : Observer) (b : Bool) (hk : o.lines.tck = .driven false) (hm : o.lines.tms = .driven b) :
    (o.seeAll pulseEvents).taps = o.taps.map (fun t => t.next b) ∧ (o.seeAll pulseEvents).lines = o.lines := by
  refine ⟨?_, ?_⟩
  · simp [pulseEvents, Observer.see, hk, Observer.edge, hm, tapsAfterEdge]
  · rw [Observer.lines_seeAll]
    simp [pulseEvents, linesAfter, ← hk]

/-- After a whole pulse the target presents the output bit that the rising edge settled (10_state.md R37). -/
theorem Observer.presented_pulse (o : Observer) (hk : o.lines.tck = .driven false) :
    (o.seeAll pulseEvents).presented = (knownTap o.taps).bind (TapState.outputAfterEdge o.lines.tms o.pending) ∧
      (o.seeAll pulseEvents).pending = (o.seeAll pulseEvents).presented := by
  simp [pulseEvents, Observer.see, hk, Observer.edge]

/-- A sample adds the output bit it reads, where it reads one, and changes nothing else the TAP or the lines show (R37). -/
theorem Observer.see_tdo (o : Observer) (b : Bool) :
    (o.see (.tdo b)).outputs = o.outputs ++ (o.sampledOutput.toList.map fun k => (k, b)) ∧
      (o.see (.tdo b)).taps = o.taps ∧ (o.see (.tdo b)).lines = o.lines ∧ (o.see (.tdo b)).shifted = o.shifted ∧
      (o.see (.tdo b)).presented = o.presented ∧ (o.see (.tdo b)).pending = o.pending := ⟨rfl, rfl, rfl, rfl, rfl, rfl⟩

/-- A transition with TCK low moves every possible TAP state along its TMS levels (40_kernels.md R100). -/
theorem Observer.taps_fsm (o : Observer) (p : U32) (n : Nat) (hk : o.lines.tck = .driven false) :
    (o.seeAll (fsmEvents p n)).taps = o.taps.map (fun t => t.after ((List.range n).map p.getLsbD)) ∧
      (o.seeAll (fsmEvents p n)).lines.tck = .driven false := by
  induction n with
  | zero => simp [fsmEvents, TapState.after, hk]
  | succ n ih =>
    obtain ⟨ht, hl⟩ := ih
    have hs : fsmEvents p (n + 1) = fsmEvents p n ++ (.tms (p.getLsbD n) :: pulseEvents) := by
      simp [fsmEvents, List.range_succ]
    obtain ⟨h1, h2⟩ := Observer.taps_pulse ((o.seeAll (fsmEvents p n)).see (.tms (p.getLsbD n))) (p.getLsbD n)
      (by rw [Observer.lines_see]; exact hl) (by rw [Observer.lines_see]; rfl)
    rw [hs, Observer.seeAll_append, Observer.seeAll_cons, h1, h2, Observer.lines_see]
    refine ⟨?_, hl⟩
    show ((o.seeAll (fsmEvents p n)).taps).map _ = _
    rw [ht, List.map_map, List.range_succ, List.map_append]
    simp [TapState.after, List.foldl_append]

/-- A known TAP state is the one every entry agrees on. -/
theorem knownTap_eq_some {taps : List TapState} {t : TapState} :
    knownTap taps = some t ↔ taps ≠ [] ∧ ∀ u ∈ taps, u = t := by
  cases taps with
  | nil => simp [knownTap]
  | cons v ts =>
    simp only [knownTap, List.all_eq_true, beq_iff_eq]
    constructor
    · intro h
      split at h
      · rename_i ha
        obtain rfl : v = t := by simpa using h
        exact ⟨by simp, fun u hu => by rcases List.mem_cons.1 hu with rfl | hu; rfl; exact ha u hu⟩
      · simp at h
    · rintro ⟨-, h⟩
      have hv := h v (by simp)
      subst hv
      rw [if_pos fun u hu => h u (by simp [hu])]

end Sys2Proof.Machine
end

