-- ==== Sys2Proof/Laws/PerInstr.lean ====
section
/-! SUPPORT. Facts about every record as syntax, one lemma per constructor. Family `EncodeLength`: a well-formed record encodes
to as many bytes as the table of 30_encoding.md R76 gives it. -/

namespace Sys2Proof.Laws.EncodeLength

/-- The encoded length of a well-formed record is the length of R76. -/
def Statement (i : Instr) : Prop :=
  ∀ (opc : OpcTable) (shiftLength : U32), i.WellFormed shiftLength = true →
    (encode opc i).length = recordLength shiftLength i

theorem complete : Statement .complete := fun _ _ _ => rfl

theorem declareTdoMask (mask : List Byte) : Statement (.declareTdoMask mask) := by
  intro opc L h
  simp only [Instr.WellFormed, beq_iff_eq] at h
  simp [encode, Instr.operandBytes, recordLength, h, Nat.add_comm]

theorem shiftInstruction (n : BitVec 8) (data : List Byte) : Statement (.shiftInstruction n data) := by
  intro opc L h
  simp only [Instr.WellFormed, beq_iff_eq] at h
  simp only [encode, Instr.operandBytes, recordLength, List.length_cons, h]
  omega

theorem shiftData (data : List Byte) : Statement (.shiftData data) := by
  intro opc L h
  simp only [Instr.WellFormed, beq_iff_eq] at h
  simp [encode, Instr.operandBytes, recordLength, h, Nat.add_comm]

theorem declareRunTest (count : U32) : Statement (.declareRunTest count) := fun _ _ _ => rfl

theorem declareShiftSize (bits : U32) : Statement (.declareShiftSize bits) := fun _ _ _ => rfl

theorem shiftDataCompare (pairs : List (Byte × Byte)) : Statement (.shiftDataCompare pairs) := by
  intro opc L h
  simp only [Instr.WellFormed, beq_iff_eq] at h
  simp [encode, Instr.operandBytes, recordLength, h, Nat.add_comm]

end Sys2Proof.Laws.EncodeLength
end

