-- ==== Sys2Proof/Machine/Listing.lean ====
section
/-! DEFINITION. The spec's own assembler syntax, one record per line (30_encoding.md R80). No behaviour of the block depends on it; the
source's diagnostic dump, whose format it does not state, is out of scope (00_scope.md R5; log 27). -/

namespace Sys2Proof.Machine

/-- A hexadecimal digit. -/
def hexDigit (n : Nat) : String :=
  ["0", "1", "2", "3", "4", "5", "6", "7", "8", "9", "A", "B", "C", "D", "E", "F"].getD n "?"

/-- A byte as two hexadecimal digits (R80). -/
def hexByte (b : Byte) : String := hexDigit (b.toNat / 16) ++ hexDigit (b.toNat % 16)

/-- The words of a record's line: hexadecimal bytes with byte 0 first, counts in decimal (R80). -/
def listingWords : Instr → List String
  | .complete => ["complete"]
  | .declareTdoMask mask => "declare-TDO-mask" :: mask.map hexByte
  | .shiftInstruction n data => "shift-instruction" :: toString n.toNat :: data.map hexByte
  | .shiftData data => "shift-data" :: data.map hexByte
  | .declareRunTest count => ["declare-run-test", toString count.toNat]
  | .declareShiftSize bits => ["declare-shift-size", toString bits.toNat]
  | .shiftDataCompare pairs =>
    "shift-data-compare" :: (pairs.map (fun p => hexByte p.1) ++ "/" :: pairs.map (fun p => hexByte p.2))

/-- A record as one line of the spec's syntax (R80). -/
def listingLine (i : Instr) : String := " ".intercalate (listingWords i)

end Sys2Proof.Machine
end

