-- ==== Sys2Proof/Tests/Slice0.lean ====
section
/-! SUPPORT. Tests on small states, with expected values from the spec's own tables and vectors (95_test_vectors.md; the id of the vector is
in each docstring), and a witness for the hypotheses of every obligation that has any. -/

namespace Sys2Proof.Machine.Tests

open Sys2Proof Sys2Proof.Machine

/-! ### Helpers -/

/-- A record boundary right after the prologue, at the default configuration: a shift length, a mask, the program bytes, the target's answers. -/
def boundary (L : U32) (mask : Memory) (program : List Byte) (answers : List Bool) : State :=
  { (State.playback defaultConfig program answers).prologue with shiftLength := L, inMask := mask }

/-- The same boundary with `ZERO_SHIFT = Literal`. -/
def literal (program : List Byte) : State :=
  { boundary 0 [] program [] with cfg := { defaultConfig with zeroShift := .literal } }

/-- The outcome is a next state with this property. -/
def nextHas (o : StepOutcome) (p : State → Bool) : Bool :=
  match o with
  | .next t => p t
  | .fault _ => false
  | .refused _ => false

/-- The outcome is this refusal. -/
def refusedWith (o : StepOutcome) (r : Refusal) : Bool :=
  match o with
  | .next _ => false
  | .fault _ => false
  | .refused q => q == r

/-- The outcome is this fault. -/
def faultsWith (o : StepOutcome) (f : Fault) : Bool :=
  match o with
  | .next _ => false
  | .fault g => g == f
  | .refused _ => false

/-- The bits of a byte, least significant first. -/
def bitsOf (b : Byte) : List Bool := (List.range 8).map b.getLsbD

/-! ### WellFormed refuses an ill-formed record, one per check -/

/-- VEC: 9 bits need 2 mask bytes (R72). -/
theorem test_wellFormed_mask_short : (Instr.declareTdoMask [0xFF]).WellFormed 9 = false := by decide
/-- SIR: 9 bits need 2 bytes (R72). -/
theorem test_wellFormed_instruction_long : (Instr.shiftInstruction 8 [0xFF, 0x01]).WellFormed 0 = false := by decide
/-- VEC: 8 bits need 1 data byte (R72). -/
theorem test_wellFormed_data_empty : (Instr.shiftData []).WellFormed 8 = false := by decide
/-- CMP: 8 bits need 1 pair (R72). -/
theorem test_wellFormed_compare_long : (Instr.shiftDataCompare [(0, 0), (0, 0)]).WellFormed 8 = false := by decide
/-- Every record well formed at a length its operand fits. -/
theorem test_wellFormed_all : ([.complete, .declareTdoMask [0xFF, 0x01], .shiftInstruction 9 [0xFF, 0x01], .shiftData [0x34, 0xF2],
    .declareRunTest 0, .declareShiftSize 0, .shiftDataCompare [(0, 0), (1, 1)]] : List Instr).all
      (fun i => i.WellFormed 9) = true := by decide

/-! ### Arithmetic -/

/-- W8: the byte count of a bit count, and D22. -/
theorem test_ceil8 : [0, 1, 7, 8, 9, 63, 64, 255, 4294967295].map ceil8 = [0, 1, 1, 1, 2, 8, 8, 32, 536870912] := by decide
/-- D4: the first byte read is the most significant. -/
theorem test_be32 : (be32 0x12 0x34 0x56 0x78).toNat = 305419896 := by decide

/-! ### Decoding words written out from the encoding tables (R72, R73) -/

theorem test_decode_complete : decode defaultOpc 0 [0b00000000, 0xEE] = .record .complete [0xEE] := by decide
/-- D6. -/
theorem test_decode_mask : decode defaultOpc 9 [0b00000001, 0xFF, 0x01, 0x00] = .record (.declareTdoMask [0xFF, 0x01]) [0x00] := by decide
/-- P1, offset 10. -/
theorem test_decode_shiftInstruction : decode defaultOpc 32 [0b00000010, 0x06, 0x09, 0x09] = .record (.shiftInstruction 6 [0x09]) [0x09] := by decide
/-- S5. -/
theorem test_decode_shiftData : decode defaultOpc 12 [0b00000011, 0x34, 0xF2, 0x00] = .record (.shiftData [0x34, 0xF2]) [0x00] := by decide
/-- D4. -/
theorem test_decode_runTest : decode defaultOpc 0 [0b00000100, 0x12, 0x34, 0x56, 0x78] = .record (.declareRunTest 0x12345678) [] := by decide
/-- P1, offset 0. -/
theorem test_decode_shiftSize : decode defaultOpc 0 [0b00001000, 0x00, 0x00, 0x00, 0x20] = .record (.declareShiftSize 32) [] := by decide
/-- P1, offset 13: data and expected bytes interleaved. -/
theorem test_decode_compare : decode defaultOpc 32 [0b00001001, 0x00, 0x93, 0x00, 0x60, 0x00, 0x05, 0x00, 0x02, 0x00]
    = .record (.shiftDataCompare [(0x00, 0x93), (0x00, 0x60), (0x00, 0x05), (0x00, 0x02)]) [0x00] := by decide
/-- E2, E3: every other byte is unsupported. -/
theorem test_decode_unsupported : [0x05, 0x06, 0x07, 0x0A, 0xFF].map (fun b => decode defaultOpc 0 [b])
    = [0x05, 0x06, 0x07, 0x0A, 0xFF].map (fun b => .failed (.unsupported b)) := by decide
/-- E6, E7: what is short. -/
theorem test_decode_short : decode defaultOpc 0 [0x02] = .failed .shortCount ∧
    decode defaultOpc 0 [0x08, 0x00, 0x00, 0x01] = .failed .shortCount ∧ decode defaultOpc 0 [] = .failed .missingOpcode ∧
    decode defaultOpc 16 [0x03, 0x11] = .failed .shortVector ∧ decode defaultOpc 0 [0x02, 0x09, 0xFF] = .failed (.shortInstruction 9) := by
  decide
/-- The encoder writes W1's records. -/
theorem test_encode : encode defaultOpc (.declareShiftSize 8) ++ encode defaultOpc (.shiftData [0xA5]) ++ encode defaultOpc .complete
    = [0x08, 0x00, 0x00, 0x00, 0x08, 0x03, 0xA5, 0x00] := by decide
/-- Record lengths with shiftLength 9 (B.5). -/
theorem test_recordLength : [.declareTdoMask [0, 0], .shiftData [0, 0], .shiftDataCompare [(0, 0), (0, 0)], .shiftInstruction 9 [0, 0],
    .declareRunTest 0, .complete].map (recordLength 9) = [3, 3, 5, 4, 5, 1] := by decide
/-- Table words at the reset shift length (log 25). -/
theorem test_decodeTableWord : [0, 1, 2, 3, 4, 8, 9, 5].map (decodeTableWord 8) =
    [some .complete, some (.declareTdoMask []), some (.shiftInstruction 0 []), some (.shiftData []), some (.declareRunTest 0),
     some (.declareShiftSize 0), some (.shiftDataCompare []), none] := by decide

/-- P1 in the spec's syntax (R80). -/
theorem test_listing : [.declareShiftSize 32, .declareTdoMask [0xFF, 0xFF, 0xFF, 0x0F], .shiftInstruction 6 [0x09],
      .shiftDataCompare [(0x00, 0x93), (0x00, 0x60), (0x00, 0x05), (0x00, 0x02)], .complete].map listingLine
    = ["declare-shift-size 32", "declare-TDO-mask FF FF FF 0F", "shift-instruction 6 09",
       "shift-data-compare 00 00 00 00 / 93 60 05 02", "complete"] := by decide

/-! ### The configuration -/

/-- R111's defaults meet R112; each of R206's four faults is found. -/
theorem test_configFault : [defaultConfig, { defaultConfig with opc := { defaultOpc with complete := 0x01 } },
    { defaultConfig with seq := { defaultSeq with exitIdle := { pattern := 1, count := 33 } } },
    { defaultConfig with seq := { defaultSeq with enterSdr := { pattern := 3, count := 4 } } },
    { defaultConfig with bufCap := 0 }].map configFault
    = [none, some .opcNotDistinct, some .seqCountAboveMax, some .seqPath, some .bufCapZero] := by decide
/-- The five outcome codes, as R200 numbers them. -/
theorem test_codes : [Result.success, .badCommand 5, .mismatch [] [] [], .capacity 129, .truncatedProgram 0].map Result.code
    = [0, 1, 2, 3, 4] := by decide

/-! ### Kernels (B.1) -/

/-- K1, after the prologue: RTI to Shift-IR. -/
theorem test_clockFsm : (clockFsm 0x03 4 (boundary 0 [] [] [])).trace.drop 18 =
    [.tms true, .tck true, .tck false, .tms true, .tck true, .tck false, .tms false, .tck true, .tck false,
     .tms false, .tck true, .tck false] ∧ (clockFsm 0x03 4 (boundary 0 [] [] [])).tap = some .shiftIr := by decide
/-- K4. -/
theorem test_idleClocks : (pulses 3 State.reset).trace = [.tck true, .tck false, .tck true, .tck false, .tck true, .tck false] := by decide
/-- K7: bits 3 to 7 are not read. -/
theorem test_shiftInOnly : (shiftInOnly 3 [(0, 0xF8)] State.reset).trace =
    [.tdi false, .tck true, .tck false, .tdi false, .tck true, .tck false, .tdi false, .tms true, .tck true, .tck false] := by decide
/-- K8: byte 0 fills first, and bit 0 within a byte; K9: unused bits are 0. -/
theorem test_shiftInOut : (shiftInOut 9 [] { State.reset with tdoNext := [true, false, false, false, false, false, false, false, true] }).outData
      = [(0, 0x01), (1, 0x01)] ∧
    (shiftInOut 4 [] { State.reset with outData := [(0, 0xFF)], tdoNext := [true, true, true, true] }).outData = [(0, 0x0F)] := by decide
/-- K10: the sample stands between the TDI write and the final TMS write. -/
theorem test_shiftInOut_trace : (shiftInOut 3 [(0, 0x05)] { State.reset with tdoNext := [true, true, false] }).trace =
    [.tdi true, .tdo true, .tck true, .tck false, .tdi false, .tdo true, .tck true, .tck false,
     .tdi true, .tdo false, .tms true, .tck true, .tck false] := by decide

/-! ### One step -/

/-- The prologue of an empty playback: 18 events, Run-Test/Idle (R232). -/
theorem test_step_prologue : nextHas (step State.reset) (fun t => t.trace.length == 18 && t.tap == some .runTestIdle && t.prologueDone) = true := by
  decide
/-- A record at `pc` changes nothing before the prologue has run (R130). -/
theorem test_step_prologue_first : nextHas (step (State.playback defaultConfig [0x05] [])) (fun t => t.pc == 0 && t.status == .running) = true := by
  decide
/-- W2: the sentinel. -/
theorem test_step_complete : nextHas (step (boundary 8 [] [0x00, 0x07] [])) (fun t => t.pc == 1 && t.status == .done .success && t.trace.length == 18) = true := by
  decide
/-- E1, E4: no sentinel. -/
theorem test_step_end : nextHas (step (boundary 0 [] [] [])) (fun t => t.status == .done (.truncatedProgram 0)) = true := by decide
/-- E2, P4: an unsupported opcode. -/
theorem test_step_unsupported : nextHas (step (boundary 0 [] [0x05] [])) (fun t => t.pc == 0 && t.status == .done (.badCommand 0x05)) = true := by
  decide
/-- D8: a shorter mask leaves the bytes above it. -/
theorem test_step_mask_keeps : nextHas (step (boundary 8 [(0, 0xAA), (1, 0xBB)] [0x01, 0xCC, 0x00] []))
    (fun t => t.inMask == [(0, 0xCC), (1, 0xBB)] && t.pc == 2) = true := by decide
/-- D7: a short mask writes nothing. -/
theorem test_step_mask_short : nextHas (step (boundary 16 [(0, 0xAA)] [0x01, 0xFF] []))
    (fun t => t.inMask == [(0, 0xAA)] && t.status == .done (.truncatedProgram 1)) = true := by decide
/-- D4. -/
theorem test_step_runTest : nextHas (step (boundary 0 [] [0x04, 0x12, 0x34, 0x56, 0x78, 0x00] []))
    (fun t => t.idleClocks.toNat == 305419896 && t.pc == 5) = true := by decide
/-- D1a and D1b: 128 bits fit in 16 bytes, 129 do not. -/
theorem test_step_shiftSize : nextHas (step (boundary 0 [] [0x08, 0x00, 0x00, 0x00, 0x80, 0x00] []))
      (fun t => t.shiftLength == 128 && t.pc == 5) = true ∧
    nextHas (step (boundary 0 [] [0x08, 0x00, 0x00, 0x00, 0x81, 0x00] []))
      (fun t => t.shiftLength == 0 && t.pc == 0 && t.status == .done (.capacity 129)) = true := by decide
/-- S1: 43 events after the prologue, TDI 0 then seven ones, back in Run-Test/Idle. -/
theorem test_step_shiftInstruction : nextHas (step (boundary 0 [] [0x02, 0x08, 0xFE, 0x00] []))
    (fun t => t.trace.length == 61 && t.pc == 3 && t.tap == some .runTestIdle &&
      t.trace.filterMap PinEvent.tdiBit? == [false, true, true, true, true, true, true, true]) = true := by decide
/-- S3: a zero-length shift is refused; S4: capacity comes before the missing bytes. -/
theorem test_step_shiftInstruction_stops : nextHas (step (boundary 0 [] [0x02, 0x00, 0x00] []))
      (fun t => t.status == .refused (.zeroLengthShift 0x02 0) && t.trace.length == 18) = true ∧
    nextHas (step (boundary 0 [] [0x02, 0xFF] [])) (fun t => t.status == .done (.capacity 255)) = true := by decide
/-- W1's shift: the TDI bits of 0xA5, 58 events in all. -/
theorem test_step_shiftData : nextHas (step (boundary 8 [] [0x03, 0xA5, 0x00] []))
    (fun t => t.trace.length == 58 && t.inData == [(0, 0xA5)] && t.lines.tdi == .driven true &&
      t.trace.filterMap PinEvent.tdiBit? == [true, false, true, false, false, true, false, true]) = true := by decide
/-- S7L: with `Literal` the TAP ends in Pause-DR after 15 events. -/
theorem test_step_shiftData_literal : nextHas (step (literal [0x03, 0x00])) (fun t => t.trace.length == 33 && t.tap == some .pauseDr) = true := by
  decide
set_option maxRecDepth 20000 in
/-- C3: the second attempt matches; two attempts of 48 events. -/
theorem test_step_compare : nextHas (step (boundary 8 [(0, 0xFF)] [0x09, 0x00, 0xA5, 0x00] (bitsOf 0x5A ++ bitsOf 0xA5)))
    (fun t => t.status == .running && t.trace.length == 114 && t.outData == [(0, 0xA5)] && t.expData == [(0, 0xA5)] &&
      t.tdoDraws == 16 && t.pc == 3) = true := by decide
set_option maxRecDepth 20000 in
/-- C5's rule with one bit: the target never answers 1, so 32 attempts end in a mismatch with the last sample. -/
theorem test_step_compare_mismatch : nextHas (step (boundary 1 [(0, 0x01)] [0x09, 0x00, 0x01, 0x00] (List.replicate 32 false)))
    (fun t => t.status == .done (.mismatch [0x00] [0x01] [0x01]) && t.tdoDraws == 32 && t.pc == 3) = true := by decide
/-- W3: the target takes in the 12 operand bits, least significant first (R37). -/
theorem test_target_takes_bits : nextHas (step (boundary 12 [] [0x03, 0x34, 0xF2, 0x00] []))
    (fun t => (observe t.trace).shifted ==
      [false, false, true, false, true, true, false, false, false, true, false, false].map Level.driven && t.tdoDraws == 0) = true := by decide
/-- Each of two attempts reads the target's output bits from 0 anew (R37, R106); a sample outside a Shift state reads none. -/
theorem test_target_output_bits : ((observe (scanDrSample 2 (scanDrSample 2 (boundary 2 [] [] [true, false, false, true]))).trace).outputs
      = [(0, true), (1, false), (0, false), (1, true)]) ∧
    (observe (shiftInOut 2 [] (boundary 2 [] [] [true, false])).trace).outputs = [] := by decide
/-- A playback that ended stays as it is; a refused one has no meaning (R238, R206). -/
theorem test_step_ended : nextHas (step { State.reset with status := .done .success })
      (fun t => t == { State.reset with status := .done .success }) = true ∧
    refusedWith (step { State.reset with status := .refused (.badConfig .seqPath) })
      (.playbackRefused (.badConfig .seqPath)) = true := by decide
/-- Operation 5 of the prologue never returns: the block is stuck with the five before it (two bits of R100, less one); operation 17 is
the prologue's last, and 18 the first after it (R231, R235). -/
theorem test_step_stuck : faultsWith (step { State.reset with hangsAt := some 5 })
      (.pinNeverReturns [.tms true, .tck true, .tck false, .tms true, .tck true]) = true ∧
    nextHas (step { State.reset with hangsAt := some 17 }) (fun _ => true) = false ∧
    nextHas (step { State.reset with hangsAt := some 18 }) (fun t => t.trace.length == 18) = true := by decide
/-- A table word placed for the next step runs as the first record (log 21). -/
theorem test_withFetchWord : nextHas (step (State.reset.withFetchWord 8 0x00)) (fun t => t.status == .done .success && t.pc == 1) = true ∧
    nextHas (step (State.reset.withFetchWord 40 0x0500000004)) (fun t => t.idleClocks == 5 && t.pc == 5) = true := by decide

/-! ### Witnesses: a concrete state and operands that meet the hypotheses of each obligation, clause by clause -/

theorem ready_boundary (L : U32) (mask : Memory) (program : List Byte) (answers : List Bool) :
    (boundary L mask program answers).Ready := ⟨rfl, rfl⟩

/-- The shortest and the longest operands of each format. -/
theorem witness_EncodedRecordDecodesToItself : opcDistinct defaultOpc = true ∧
    ([(0, .complete), (0, .declareTdoMask []), (9, .declareTdoMask [0xFF, 0x01]), (0, .shiftInstruction 0 []),
      (0, .shiftInstruction 255 (List.replicate 32 0xFF)), (16, .shiftData [0x34, 0xF2]), (0, .declareRunTest 0xFFFFFFFF),
      (0, .declareShiftSize 0), (8, .shiftDataCompare [(0x00, 0xA5)])] : List (U32 × Instr)).all
        (fun p => p.2.WellFormed p.1) = true := by decide

theorem witness_DecodedBytesAreTheEncodedRecord :
    decode defaultOpc 8 [0x09, 0x00, 0xA5, 0x00] = .record (.shiftDataCompare [(0x00, 0xA5)]) [0x00] := by decide

theorem witness_CountsAreBigEndian : opcDistinct defaultOpc = true ∧ (be32 0xFF 0xFF 0xFF 0xFF).toNat = 4294967295 := by decide

theorem witness_StepRunsTheDecodedRecord :
    ((boundary 8 [] [0x03, 0xA5, 0x00] []).Ready ∧ (boundary 8 [] [0x03, 0xA5, 0x00] []).fetch = .record (.shiftData [0xA5]) [0x00]) ∧
    (opcDistinct (boundary 8 [] [0x03, 0xA5, 0x00] []).cfg.opc = true ∧ (Instr.shiftData [0xA5]).WellFormed 8 = true ∧
      (boundary 8 [] [0x03, 0xA5, 0x00] []).programFrom 0 = encode defaultOpc (.shiftData [0xA5]) ++ [0x00]) ∧
    (State.reset.status = .running ∧ State.reset.prologueDone = false) ∧ State.reset.hangsAt = none ∧
    (State.reset.advance 1).trace = ({ State.reset with hangsAt := some 0 } : State).trace ∧
    ({ State.reset with status := .done .success } : State).status = .done .success ∧
    ({ State.reset with status := .refused (.badConfig .seqPath) } : State).status = .refused (.badConfig .seqPath) :=
  ⟨⟨ready_boundary _ _ _ _, by decide⟩, ⟨by decide, by decide, by decide⟩, ⟨rfl, rfl⟩, rfl, rfl, rfl, rfl⟩

theorem witness_PlaybackStartsFromTheResetValues : 0 < [(0x00 : Byte)].length := by decide

theorem witness_PrologueRunsOnceBeforeTheFirstRecord :
    (State.reset.status = .running ∧ State.reset.prologueDone = false ∧ configFault State.reset.cfg = none ∧
      State.reset.cfg.seq = defaultSeq ∧ State.reset.LinesShown ∧ State.reset.lines.tck = .driven false ∧
      ∃ t, step State.reset = .next t) ∧
    ((boundary 0 [] [0x00] []).prologueDone = true ∧ ∃ t, step (boundary 0 [] [0x00] []) = .next t) :=
  ⟨⟨rfl, rfl, by decide, rfl, rfl, rfl, _, rfl⟩, rfl, _, rfl⟩

theorem witness_DefaultPrologueTrace : defaultConfig.seq = defaultSeq ∧ configFault defaultConfig = none := by decide

theorem witness_BadConfigurationIsRefusedBeforePlayback :
    ({ State.reset with cfg := { defaultConfig with bufCap := 0 } } : State).status = .running ∧
    ({ State.reset with cfg := { defaultConfig with bufCap := 0 } } : State).prologueDone = false ∧
    configFault { defaultConfig with bufCap := 0 } = some .bufCapZero := by decide

/-- The operand ends exactly at the program's end; one byte, and all four bytes, are missing. -/
theorem witness_RunTestDeclarationSetsIdleClocks :
    (let s := boundary 0 [] [0x04, 0x00, 0x00, 0x00, 0x02] []
     s.Ready ∧ opcDistinct s.cfg.opc = true ∧ s.prog.read s.pc = s.cfg.opc.declareRunTest ∧ s.pc + 5 ≤ s.progLen) ∧
    (let s := boundary 0 [] [0x04, 0x00, 0x00, 0x00] []
     s.Ready ∧ opcDistinct s.cfg.opc = true ∧ s.prog.read s.pc = s.cfg.opc.declareRunTest ∧ s.pc < s.progLen ∧ s.progLen < s.pc + 5) ∧
    (let s := boundary 0 [] [0x04] []
     s.Ready ∧ s.prog.read s.pc = s.cfg.opc.declareRunTest ∧ s.pc < s.progLen ∧ s.progLen < s.pc + 5) ∧
    State.reset.idleClocks = 0 :=
  ⟨⟨ready_boundary _ _ _ _, by decide, by decide, by decide⟩, ⟨ready_boundary _ _ _ _, by decide, by decide, by decide, by decide⟩,
    ⟨ready_boundary _ _ _ _, by decide, by decide, by decide⟩, rfl⟩

/-- 128 and 129 bits at 16 bytes; a whole and a short operand. -/
theorem witness_ShiftSizeDeclarationSetsShiftLengthOrRaisesCapacity :
    (128 : U32).toNat ≤ 8 * State.reset.cfg.bufCap ∧ 8 * State.reset.cfg.bufCap < (129 : U32).toNat ∧
    (let s := boundary 0 [] [0x08, 0x00, 0x00, 0x00, 0x80] []
     s.Ready ∧ opcDistinct s.cfg.opc = true ∧ s.prog.read s.pc = s.cfg.opc.declareShiftSize ∧ s.pc + 5 ≤ s.progLen) ∧
    (let s := boundary 0 [] [0x08, 0x00, 0x00, 0x01] []
     s.Ready ∧ opcDistinct s.cfg.opc = true ∧ s.prog.read s.pc = s.cfg.opc.declareShiftSize ∧ s.pc < s.progLen ∧ s.progLen < s.pc + 5) :=
  ⟨by decide, by decide, ⟨ready_boundary _ _ _ _, by decide, by decide, by decide⟩,
    ⟨ready_boundary _ _ _ _, by decide, by decide, by decide, by decide⟩⟩

/-- No bits, nine bits, and a full buffer. -/
theorem witness_TdoMaskDeclarationWritesTheMaskBytes :
    ((Instr.declareTdoMask []).WellFormed State.reset.shiftLength = true ∧ State.reset.shiftLength.toNat ≤ 8 * State.reset.cfg.bufCap) ∧
    ((Instr.declareTdoMask (List.replicate 16 0xFF)).WellFormed (boundary 128 [] [] []).shiftLength = true ∧
      (boundary 128 [] [] []).shiftLength.toNat ≤ 8 * (boundary 128 [] [] []).cfg.bufCap) ∧
    (let s := boundary 9 [] [0x01, 0xFF, 0x01] []
     s.Ready ∧ opcDistinct s.cfg.opc = true ∧ s.prog.read s.pc = s.cfg.opc.declareTdoMask ∧
       s.pc + 1 + ceil8 s.shiftLength.toNat ≤ s.progLen) :=
  ⟨by decide, by decide, ready_boundary _ _ _ _, by decide, by decide, by decide⟩

theorem witness_SentinelEndsThePlaybackWithSuccess :
    (let s := boundary 0 [] [0x00] []
     s.Ready ∧ opcDistinct s.cfg.opc = true ∧ s.pc < s.progLen ∧ s.prog.read s.pc = s.cfg.opc.complete) ∧
    configFault defaultConfig = none :=
  ⟨⟨ready_boundary _ _ _ _, by decide, by decide, by decide⟩, by decide⟩

theorem witness_UnsupportedOpcodeEndsThePlayback :
    (let s := boundary 0 [] [0x05] []
     s.Ready ∧ s.pc < s.progLen ∧ s.prog.read s.pc ∉ opcValues s.cfg.opc) ∧
    configFault defaultConfig = none ∧ (0xFF : Byte) ∉ opcValues defaultConfig.opc :=
  ⟨⟨ready_boundary _ _ _ _, by decide, by decide⟩, by decide, by decide⟩

theorem witness_ClockFsmDrivesThePatternBits :
    let c : Config := { defaultConfig with seq := { defaultSeq with exitIdle := { pattern := 1, count := 33 } } }
    ({ State.reset with cfg := c } : State).status = .running ∧ ({ State.reset with cfg := c } : State).prologueDone = false ∧
    opcDistinct c.opc = true ∧ ∃ t ∈ [c.seq.resetIdle, c.seq.enterSir, c.seq.enterSdr, c.seq.exitIdle], 32 < t.count := by decide

/-- Two buffers that agree on the three bits shifted and differ above them (K7); a zero-length shift refused at reset. -/
theorem witness_ShiftInOnlyDrivesTheDataBits :
    (∀ k, k < 3 → Memory.bit [(0, 0xF8)] k = Memory.bit [(0, 0x18)] k) ∧ State.reset.cfg.zeroShift = .refuse ∧
    State.reset.shiftLength = 0 := by decide

/-- 1 bit and 128 bits, the least and the most the buffers take; 129 bits, and a whole operand. -/
theorem witness_ShiftInstructionScansTheInstructionRegister :
    ((Instr.shiftInstruction 1 [0x01]).WellFormed 0 = true ∧ (1 : BitVec 8).toNat ≤ 8 * State.reset.cfg.bufCap ∧ (1 : BitVec 8) ≠ 0) ∧
    ((Instr.shiftInstruction 128 (List.replicate 16 0xFF)).WellFormed 0 = true ∧
      (128 : BitVec 8).toNat ≤ 8 * State.reset.cfg.bufCap ∧ (128 : BitVec 8) ≠ 0) ∧
    8 * State.reset.cfg.bufCap < (129 : BitVec 8).toNat ∧ (literal []).cfg.zeroShift = .literal ∧
    (let s := boundary 0 [] [0x02, 0x08, 0xFE] []
     s.Ready ∧ opcDistinct s.cfg.opc = true ∧ s.prog.read s.pc = s.cfg.opc.shiftInstruction ∧
       s.pc + 2 + ceil8 (s.prog.read (s.pc + 1)).toNat ≤ s.progLen) :=
  ⟨by decide, by decide, by decide, rfl, ready_boundary _ _ _ _, by decide, by decide, by decide⟩

theorem witness_ShiftDataScansTheDataRegister :
    (let s := boundary 128 [] [] []
     (Instr.shiftData (List.replicate 16 0xFF)).WellFormed s.shiftLength = true ∧ s.shiftLength.toNat ≤ 8 * s.cfg.bufCap ∧
       s.shiftLength ≠ 0) ∧
    ((Instr.shiftData []).WellFormed (literal []).shiftLength = true ∧ (literal []).cfg.zeroShift = .literal) ∧
    (let s := boundary 8 [] [0x03, 0xA5] []
     s.Ready ∧ opcDistinct s.cfg.opc = true ∧ s.prog.read s.pc = s.cfg.opc.shiftData ∧
       s.pc + 1 + ceil8 s.shiftLength.toNat ≤ s.progLen) :=
  ⟨by decide, by decide, ready_boundary _ _ _ _, by decide, by decide, by decide⟩

theorem witness_ShiftBitsGoLeastSignificantFirst :
    (let s := boundary 12 [] [] []
     (Instr.shiftData [0x34, 0xF2]).WellFormed s.shiftLength = true ∧ s.shiftLength ≠ 0 ∧ ∃ t, exec (.shiftData [0x34, 0xF2]) s = .next t) ∧
    (let s := boundary 0 [] [] []
     (Instr.shiftInstruction 6 [0x09]).WellFormed s.shiftLength = true ∧ (6 : BitVec 8) ≠ 0 ∧ (6 : BitVec 8).toNat ≤ 8 * s.cfg.bufCap ∧
       ∃ t, exec (.shiftInstruction 6 [0x09]) s = .next t) ∧
    (let s := boundary 8 [] [] []
     (Instr.shiftDataCompare [(0x05, 0x80)]).WellFormed s.shiftLength = true ∧ s.shiftLength ≠ 0 ∧
       ∃ t, exec (.shiftDataCompare [(0x05, 0x80)]) s = .next t) :=
  ⟨⟨by decide, by decide, _, rfl⟩, ⟨by decide, by decide, by decide, _, rfl⟩, by decide, by decide, _, rfl⟩

theorem witness_ScanEventCounts : State.reset.cfg.seq = defaultSeq ∧ 0 < 1 := by decide

theorem witness_LiteralZeroLengthShiftPauses :
    (literal []).cfg.zeroShift = .literal ∧ (literal []).shiftLength = 0 ∧ (literal []).cfg.seq = defaultSeq ∧
    (literal []).LinesShown ∧ (literal []).lines.tck = .driven false ∧ (literal []).tap = some .runTestIdle :=
  ⟨rfl, rfl, rfl, rfl, rfl, by decide⟩

/-- One byte to compare under a mask: an answer that matches at the first attempt, and answers of which none matches. -/
theorem witness_CompareStopsAtTheFirstMatchOrAfter32Attempts :
    (let s := boundary 1 [(0, 0x01)] [] (List.replicate 32 false)
     (Instr.shiftDataCompare [(0x00, 0x01)]).WellFormed s.shiftLength = true ∧ s.shiftLength.toNat ≤ 8 * s.cfg.bufCap ∧
       s.shiftLength ≠ 0 ∧ ∀ b, b < 32 → ¬ s.attemptMatches [(0x00, 0x01)] b) ∧
    (let s := boundary 1 [(0, 0x01)] [] [false, true]
     (Instr.shiftDataCompare [(0x00, 0x01)]).WellFormed s.shiftLength = true ∧ s.shiftLength.toNat ≤ 8 * s.cfg.bufCap ∧
       s.shiftLength ≠ 0 ∧ s.attemptMatches [(0x00, 0x01)] 1 ∧ ∀ b, b < 1 → ¬ s.attemptMatches [(0x00, 0x01)] b) := by
  unfold State.attemptMatches
  decide

theorem witness_CompareOperandSplit :
    (let s := boundary 8 [] [0x09, 0x00, 0xA5, 0x00] [true]
     s.Ready ∧ opcDistinct s.cfg.opc = true ∧ s.shiftLength ≠ 0 ∧
       s.programFrom s.pc = s.cfg.opc.shiftDataCompare :: ([0x00, 0xA5] ++ [0x00]) ∧
       [(0x00 : Byte), 0xA5].length = 2 * ceil8 s.shiftLength.toNat ∧ 0 < ceil8 s.shiftLength.toNat ∧ ∃ t, step s = .next t) ∧
    ∃ t, step (boundary 8 [] [0x01, 0xFF] []) = .next t :=
  ⟨⟨ready_boundary _ _ _ _, by decide, by decide, by decide, by decide, by decide, _, rfl⟩, _, rfl⟩

theorem witness_ZeroMaskMatchesOnTheFirstAttempt :
    let s := boundary 8 [] [] []
    (Instr.shiftDataCompare [(0x00, 0xA5)]).WellFormed s.shiftLength = true ∧ s.shiftLength.toNat ≤ 8 * s.cfg.bufCap ∧
      s.shiftLength ≠ 0 ∧ ∀ a, a < 1 → s.inMask.read a = 0 := by decide

/-- C5: four bits, mask FF, expected 15: bit 4 is unused. -/
theorem witness_UnusedBitExpectedOneNeverMatches :
    let s := boundary 4 [(0, 0xFF)] [] []
    (Instr.shiftDataCompare [(0x00, 0x15)]).WellFormed s.shiftLength = true ∧ s.shiftLength.toNat ≤ 8 * s.cfg.bufCap ∧
      s.shiftLength ≠ 0 ∧ s.shiftLength.toNat ≤ 8 * 0 + 4 ∧ (s.inMask.read 0).getLsbD 4 = true ∧ (0x15 : Byte).getLsbD 4 = true := by decide

/-- The step of `test_step_compare_mismatch`. -/
theorem witness_MismatchOnlyAfter32FailedAttempts :
    ∃ t got mask expected, (boundary 1 [(0, 0x01)] [0x09, 0x00, 0x01, 0x00] (List.replicate 32 false)).Ready ∧
      step (boundary 1 [(0, 0x01)] [0x09, 0x00, 0x01, 0x00] (List.replicate 32 false)) = .next t ∧
      t.status = .done (.mismatch got mask expected) := by
  have h := test_step_compare_mismatch
  revert h
  cases step (boundary 1 [(0, 0x01)] [0x09, 0x00, 0x01, 0x00] (List.replicate 32 false)) with
  | next t =>
    intro h
    simp only [nextHas, Bool.and_eq_true, beq_iff_eq] at h
    exact ⟨t, _, _, _, ready_boundary _ _ _ _, rfl, h.1.1⟩
  | fault f => intro h; cases h
  | refused r => intro h; cases h

/-- For each check a state it fails in, at a boundary value, and what R208 says of it. -/
theorem witness_ChecksRunInTheirFixedOrder :
    (∀ L p, (boundary L [] p []).Ready ∧ opcDistinct (boundary L [] p []).cfg.opc = true) ∧
    (let s := boundary 0 [] [] []; s.progLen ≤ s.pc) ∧
    (let s := boundary 0 [] [0x05] []; s.pc < s.progLen ∧ s.prog.read s.pc ∉ opcValues s.cfg.opc) ∧
    (let s := boundary 0 [] [0x02] []; s.prog.read s.pc = s.cfg.opc.shiftInstruction ∧ s.progLen < s.pc + 2) ∧
    (let s := boundary 0 [] [0x02, 0x81] []
     s.prog.read s.pc = s.cfg.opc.shiftInstruction ∧ s.pc + 2 ≤ s.progLen ∧ 8 * s.cfg.bufCap < (s.prog.read (s.pc + 1)).toNat) ∧
    (let s := boundary 0 [] [0x02, 0x00] []
     s.prog.read s.pc = s.cfg.opc.shiftInstruction ∧ s.pc + 2 ≤ s.progLen ∧ (s.prog.read (s.pc + 1)).toNat = 0 ∧
       s.cfg.zeroShift = .refuse) ∧
    (let s := boundary 0 [] [0x02, 0x80, 0x00] []
     s.prog.read s.pc = s.cfg.opc.shiftInstruction ∧ s.pc + 2 ≤ s.progLen ∧ (s.prog.read (s.pc + 1)).toNat ≤ 8 * s.cfg.bufCap ∧
       s.progLen < s.pc + 2 + ceil8 (s.prog.read (s.pc + 1)).toNat) ∧
    (let s := boundary 0 [] [0x04, 0x00, 0x00, 0x00] []; s.prog.read s.pc = s.cfg.opc.declareRunTest ∧ s.progLen < s.pc + 5) ∧
    (let s := boundary 0 [] [0x08, 0x00, 0x00, 0x01] []; s.prog.read s.pc = s.cfg.opc.declareShiftSize ∧ s.progLen < s.pc + 5) ∧
    (let s := boundary 0 [] [0x08, 0x00, 0x00, 0x00, 0x81] []
     s.prog.read s.pc = s.cfg.opc.declareShiftSize ∧ s.pc + 5 ≤ s.progLen ∧ 8 * s.cfg.bufCap <
       (be32 (s.prog.read (s.pc + 1)) (s.prog.read (s.pc + 2)) (s.prog.read (s.pc + 3)) (s.prog.read (s.pc + 4))).toNat) ∧
    (let s := boundary 16 [] [0x01, 0xFF] []
     s.prog.read s.pc = s.cfg.opc.declareTdoMask ∧ s.progLen < s.pc + 1 + ceil8 s.shiftLength.toNat) ∧
    (let s := boundary 0 [] [0x03] []
     s.prog.read s.pc = s.cfg.opc.shiftData ∧ s.shiftLength = 0 ∧ s.cfg.zeroShift = .refuse) ∧
    (let s := boundary 0 [] [0x09] []
     s.prog.read s.pc = s.cfg.opc.shiftDataCompare ∧ s.shiftLength = 0 ∧ s.cfg.zeroShift = .refuse) ∧
    (let s := boundary 16 [] [0x03, 0x11] []
     s.prog.read s.pc = s.cfg.opc.shiftData ∧ s.progLen < s.pc + 1 + ceil8 s.shiftLength.toNat) ∧
    (let s := boundary 16 [] [0x09, 0x00, 0x00, 0x00] []
     s.prog.read s.pc = s.cfg.opc.shiftDataCompare ∧ s.progLen < s.pc + 1 + 2 * ceil8 s.shiftLength.toNat) :=
  ⟨fun _ _ => ⟨ready_boundary _ _ _ _, rfl⟩, by decide, by decide, by decide, by decide, by decide, by decide, by decide, by decide,
    by decide, by decide, by decide, by decide, by decide, by decide⟩

/-- One state for each way a record fails. -/
theorem witness_FailingRecordsChangeOnlyTheStatus :
    (∃ t o, (boundary 0 [] [] []).Ready ∧ step (boundary 0 [] [] []) = .next t ∧ t.status = .done (.truncatedProgram o)) ∧
    (∃ t c, step (boundary 0 [] [0x02, 0x81] []) = .next t ∧ t.status = .done (.capacity c)) ∧
    (∃ t op, step (boundary 0 [] [0x05] []) = .next t ∧ t.status = .done (.badCommand op)) ∧
    (∃ t r, step (boundary 0 [] [0x03] []) = .next t ∧ t.status = .refused r) :=
  ⟨⟨_, _, ready_boundary _ _ _ _, rfl, rfl⟩, ⟨_, _, rfl, rfl⟩, ⟨_, _, rfl, rfl⟩, _, _, rfl, rfl⟩

theorem witness_SuccessOnlyFromTheSentinel :
    ∃ t, (boundary 0 [] [0x00] []).Ready ∧ step (boundary 0 [] [0x00] []) = .next t ∧ t.status = .done .success :=
  ⟨_, ready_boundary _ _ _ _, rfl, rfl⟩

theorem witness_ErrorsAbortAtOnceAndUndoNothing :
    ∃ t r, step (boundary 0 [] [0x05] []) = .next t ∧ t.status = .done r := ⟨_, _, rfl, rfl⟩

theorem witness_StatusChangesOncePerPlayback :
    ∃ t, Host.Core.run core 3 { State.reset with status := .done .success } = .next t ∧
      ({ State.reset with status := .done .success } : State).Ended :=
  ⟨_, rfl, by simp [State.Ended]⟩

/-- A record boundary with the invariant: a nine-bit shift length, a mask, a program. -/
theorem witness_inv : (boundary 9 [(0, 0xFF), (1, 0x01)] [0x03, 0x34, 0xF2, 0x00] []).Inv where
  prog_fits := by unfold Memory.Fits; decide
  inMask_fits := by unfold Memory.Fits; decide
  inData_fits := by unfold Memory.Fits; decide
  outData_fits := by unfold Memory.Fits; decide
  expData_fits := by unfold Memory.Fits; decide
  pc_le := by decide
  shiftLength_le := by decide
  lines_shown := by unfold State.LinesShown; decide
  tck_low := rfl
  fresh := by decide

/-- The start of a playback whose first pin operation never returns. -/
theorem witness_inv_hung : ({ State.reset with hangsAt := some 0 } : State).Inv where
  prog_fits := by unfold Memory.Fits; decide
  inMask_fits := by unfold Memory.Fits; decide
  inData_fits := by unfold Memory.Fits; decide
  outData_fits := by unfold Memory.Fits; decide
  expData_fits := by unfold Memory.Fits; decide
  pc_le := by decide
  shiftLength_le := by decide
  lines_shown := by unfold State.LinesShown; decide
  tck_low := rfl
  fresh := by decide

theorem witness_StepKeepsTheInvariant :
    (boundary 9 [(0, 0xFF), (1, 0x01)] [0x03, 0x34, 0xF2, 0x00] []).Inv ∧
      ∃ t, step (boundary 9 [(0, 0xFF), (1, 0x01)] [0x03, 0x34, 0xF2, 0x00] []) = .next t := ⟨witness_inv, _, rfl⟩

/-- States with the invariant: one whose playback was refused, one stuck in its first operation, one whose operations all return. -/
theorem witness_NoStepFaultsUnderTheInvariant :
    ({ boundary 9 [(0, 0xFF), (1, 0x01)] [0x03, 0x34, 0xF2, 0x00] [] with status := .refused (.badConfig .seqPath) } : State).Inv ∧
      step { boundary 9 [(0, 0xFF), (1, 0x01)] [0x03, 0x34, 0xF2, 0x00] [] with status := .refused (.badConfig .seqPath) }
        = .refused (.playbackRefused (.badConfig .seqPath)) ∧
    ({ State.reset with hangsAt := some 0 } : State).Inv ∧
    (∃ f, step { State.reset with hangsAt := some 0 } = .fault f) ∧
    (boundary 9 [(0, 0xFF), (1, 0x01)] [0x03, 0x34, 0xF2, 0x00] []).hangsAt = none :=
  ⟨⟨witness_inv.1, witness_inv.2, witness_inv.3, witness_inv.4, witness_inv.5, witness_inv.6, witness_inv.7, witness_inv.8,
    witness_inv.9, witness_inv.10⟩, rfl, witness_inv_hung, ⟨_, rfl⟩, rfl⟩

theorem witness_StepsRestInRunTestIdle :
    let s := boundary 8 [] [0x03, 0xA5, 0x00] []
    configFault s.cfg = none ∧ s.cfg.zeroShift = .refuse ∧ s.RestsIdle ∧ s.prologueDone = true ∧ ∃ t, step s = .next t :=
  ⟨by decide, rfl, ⟨rfl, rfl, fun _ => ⟨by decide, rfl⟩⟩, rfl, _, rfl⟩

theorem witness_TargetTakesInExactlyTheOperandBits :
    let s := boundary 8 [] [] []
    s.cfg.seq = defaultSeq ∧ s.RestsIdle ∧ s.prologueDone = true ∧
    (Instr.shiftInstruction 6 [0x09]).WellFormed s.shiftLength = true ∧ (6 : BitVec 8).toNat ≤ 8 * s.cfg.bufCap ∧
    (Instr.shiftData [0xA5]).WellFormed s.shiftLength = true ∧
    (Instr.shiftDataCompare [(0x05, 0x80)]).WellFormed s.shiftLength = true ∧ s.shiftLength ≠ 0 ∧
    (∃ t, exec (.shiftInstruction 6 [0x09]) s = .next t) ∧ (∃ t, exec (.shiftData [0xA5]) s = .next t) ∧
    ∃ t, exec (.shiftDataCompare [(0x05, 0x80)]) s = .next t :=
  ⟨rfl, ⟨rfl, rfl, fun _ => ⟨by decide, rfl⟩⟩, rfl, by decide, by decide, by decide, by decide, by decide, ⟨_, rfl⟩, ⟨_, rfl⟩, _, rfl⟩

theorem witness_RisingEdgesAreTheTckOneEvents :
    let s := boundary 8 [] [0x03, 0xA5, 0x00] []
    s.LinesShown ∧ s.lines.tck = .driven false ∧ (observe s.trace).edges.length = s.trace.count (.tck true) ∧
      ∃ t, step s = .next t :=
  ⟨rfl, rfl, by decide, _, rfl⟩

/-- Each record answers a next state, so no clause is about nothing. -/
theorem witness_AccessSummaryOfEveryOpcode :
    (∃ t, exec .complete (boundary 8 [] [] []) = .next t) ∧ (∃ t, exec (.declareTdoMask [0xFF]) (boundary 8 [] [] []) = .next t) ∧
    (∃ t, exec (.shiftInstruction 6 [0x09]) (boundary 8 [] [] []) = .next t) ∧
    (∃ t, exec (.shiftData [0xA5]) (boundary 8 [] [] []) = .next t) ∧ (∃ t, exec (.declareRunTest 2) (boundary 8 [] [] []) = .next t) ∧
    (∃ t, exec (.declareShiftSize 128) (boundary 8 [] [] []) = .next t) ∧
    (∃ t, exec (.shiftDataCompare [(0x00, 0xA5)]) (boundary 8 [] [] []) = .next t) :=
  ⟨⟨_, rfl⟩, ⟨_, rfl⟩, ⟨_, rfl⟩, ⟨_, rfl⟩, ⟨_, rfl⟩, ⟨_, rfl⟩, ⟨_, rfl⟩⟩

theorem witness_ShiftsThatDoNotCompareNeverSample :
    (∀ ps, Instr.shiftData [0xA5] ≠ .shiftDataCompare ps) ∧ ∃ t, exec (.shiftData [0xA5]) (boundary 8 [] [] []) = .next t :=
  ⟨fun _ h => (nomatch h), _, rfl⟩

theorem witness_EveryFetchReadsTheBytesGivenAtStart :
    ∃ t, Host.Core.run core 2 (State.playback defaultConfig [0x04, 0x00, 0x00, 0x00, 0x02] []) = .next t := ⟨_, rfl⟩

/-- A record that runs, and one that ends the playback. -/
theorem witness_CursorMovesByTheRecordLength :
    (boundary 9 [(0, 0xFF), (1, 0x01)] [0x03, 0x34, 0xF2, 0x00] []).Ready ∧
      (boundary 9 [(0, 0xFF), (1, 0x01)] [0x03, 0x34, 0xF2, 0x00] []).Inv ∧
      ∃ t, step (boundary 9 [(0, 0xFF), (1, 0x01)] [0x03, 0x34, 0xF2, 0x00] []) = .next t :=
  ⟨ready_boundary _ _ _ _, witness_inv, _, rfl⟩

/-- A state whose operations return, and one that is stuck at its first. -/
theorem witness_EveryPlaybackEnds : (boundary 9 [(0, 0xFF), (1, 0x01)] [0x03, 0x34, 0xF2, 0x00] []).Inv ∧
    (boundary 9 [(0, 0xFF), (1, 0x01)] [0x03, 0x34, 0xF2, 0x00] []).prologueDone = true ∧
    (boundary 9 [(0, 0xFF), (1, 0x01)] [0x03, 0x34, 0xF2, 0x00] []).hangsAt = none ∧
    ({ State.reset with hangsAt := some 0 } : State).Inv ∧
    ∃ es, Host.Core.run core 1 { State.reset with hangsAt := some 0 } = .fault (.pinNeverReturns es) :=
  ⟨witness_inv, rfl, rfl, witness_inv_hung, _, rfl⟩

/-- The data shift of W1 after the prologue, with pin operation `n` never returning: 18 operations before it, 58 after it. -/
def hanging (n : Nat) : State := { boundary 8 [] [0x03, 0xA5, 0x00] [] with hangsAt := some n }

theorem hanging_next (n : Nat) (hn : n = 18 ∨ n = 57 ∨ n = 58) :
    (hanging n).Ready ∧ (hanging n).fetch = .record (.shiftData [0xA5]) [0x00] ∧
      ∃ t, exec (.shiftData [0xA5]) (hanging n) = .next t ∧ t.trace.length = 58 := by
  have h : nextHas (exec (.shiftData [0xA5]) (hanging n)) (fun t => t.trace.length == 58) = true := by
    rcases hn with rfl | rfl | rfl <;> decide
  refine ⟨⟨rfl, rfl⟩, by rcases hn with rfl | rfl | rfl <;> decide, ?_⟩
  revert h
  cases exec (.shiftData [0xA5]) (hanging n) with
  | next t => intro h; exact ⟨t, rfl, by simpa [nextHas] using h⟩
  | fault f => intro h; cases h
  | refused r => intro h; cases h

/-- A record whose first operation hangs, one whose last does, and one that ends just before it; the same for the prologue; a playback
stuck in it. -/
theorem witness_PinOperationThatNeverReturnsLeavesTheBlockStuck :
    (∀ n, n = 18 ∨ n = 57 ∨ n = 58 → (hanging n).Ready ∧ (hanging n).hangsAt = some n ∧ (hanging n).trace.length = 18 ∧
      (hanging n).fetch = .record (.shiftData [0xA5]) [0x00] ∧
      ∃ t, exec (.shiftData [0xA5]) (hanging n) = .next t ∧ t.trace.length = 58) ∧
    (∀ n, ({ State.reset with hangsAt := some n } : State).status = .running ∧
      ({ State.reset with hangsAt := some n } : State).prologueDone = false) ∧
    configFault State.reset.cfg = none ∧ State.reset.trace.length = 0 ∧
    (transitionEvents State.reset.cfg.seq.resetIdle).length = 18 ∧
    (∃ es, step { State.reset with hangsAt := some 17 } = .fault (.pinNeverReturns es)) ∧
    ∃ es, Host.Core.run core 1 { State.reset with hangsAt := some 17 } = .fault (.pinNeverReturns es) :=
  ⟨fun n hn => ⟨(hanging_next n hn).1, rfl, by rcases hn with rfl | rfl | rfl <;> decide, (hanging_next n hn).2.1, (hanging_next n hn).2.2⟩, fun _ => ⟨rfl, rfl⟩,
    by decide, rfl, by decide, ⟨_, rfl⟩, _, rfl⟩

end Sys2Proof.Machine.Tests
end

/-! PROOFS, family of 10_state.md: which fields a record writes, what a step does on the pins, the cursor, the invariant. -/

namespace Sys2Proof.Machine

/-! ### Whole pulses -/

/-- Events in which TCK moves only in whole pulses `TCK(1); TCK(0)` (00_scope.md R11). -/
inductive Pulsed : List PinEvent → Prop
  | nil : Pulsed []
  | tms (b : Bool) {es : List PinEvent} : Pulsed es → Pulsed (.tms b :: es)
  | tdi (b : Bool) {es : List PinEvent} : Pulsed es → Pulsed (.tdi b :: es)
  | tdo (b : Bool) {es : List PinEvent} : Pulsed es → Pulsed (.tdo b :: es)
  | pulse {es : List PinEvent} : Pulsed es → Pulsed (.tck true :: .tck false :: es)

theorem Pulsed.append {es fs : List PinEvent} (he : Pulsed es) (hf : Pulsed fs) : Pulsed (es ++ fs) := by
  induction he with
  | nil => exact hf
  | tms b _ ih => exact ih.tms b
  | tdi b _ ih => exact ih.tdi b
  | tdo b _ ih => exact ih.tdo b
  | pulse _ ih => exact ih.pulse

theorem Pulsed.flatMap {ι : Type} {f : ι → List PinEvent} (hf : ∀ i, Pulsed (f i)) (is : List ι) :
    Pulsed (is.flatMap f) := by
  induction is with
  | nil => exact .nil
  | cons i is ih => exact (hf i).append ih

theorem pulsed_pulseEvents : Pulsed pulseEvents := .pulse .nil

theorem pulsed_transitionEvents (t : Transition) : Pulsed (transitionEvents t) :=
  .flatMap (fun _ => .tms _ pulsed_pulseEvents) _

theorem pulsed_idleEvents (n : Nat) : Pulsed (idleEvents n) := .flatMap (fun _ => pulsed_pulseEvents) _

theorem pulsed_finalTms (n k : Nat) : Pulsed (finalTms n k) := by
  unfold finalTms
  split
  · exact .tms _ .nil
  · exact .nil

theorem pulsed_shiftEvents (n : Nat) (bit : Nat → Bool) : Pulsed (shiftEvents n bit) :=
  .flatMap (fun k => .tdi _ ((pulsed_finalTms n k).append pulsed_pulseEvents)) _

theorem pulsed_sampleEvents (n : Nat) (bit answer : Nat → Bool) : Pulsed (sampleEvents n bit answer) :=
  .flatMap (fun k => .tdi _ (.tdo _ ((pulsed_finalTms n k).append pulsed_pulseEvents))) _

theorem pulsed_scanEvents (enter exit : Transition) {shift : List PinEvent} (h : Pulsed shift) (idle : U32) :
    Pulsed (scanEvents enter exit shift idle) :=
  (((pulsed_transitionEvents enter).append h).append (pulsed_transitionEvents exit)).append (pulsed_idleEvents _)

/-- Whole pulses leave TCK low where it was low (R33). -/
theorem Pulsed.tck_linesAfter {es : List PinEvent} (h : Pulsed es) (l : Lines) (hl : l.tck = .driven false) :
    (linesAfter l es).tck = .driven false := by
  induction h generalizing l with
  | nil => exact hl
  | tms b _ ih => exact ih { l with tms := .driven b } hl
  | tdi b _ ih => exact ih { l with tdi := .driven b } hl
  | tdo b _ ih => exact ih l hl
  | pulse _ ih => exact ih { l with tck := .driven false } rfl

/-- From TCK low, every `TCK(1)` of whole pulses is a rising edge (R34). -/
theorem Pulsed.edges_seeAll {es : List PinEvent} (h : Pulsed es) (o : Observer) (ho : o.lines.tck = .driven false) :
    (o.seeAll es).edges.length = o.edges.length + es.count (.tck true) := by
  induction h generalizing o with
  | nil => rfl
  | tms b _ ih => exact (ih (o.see (.tms b)) ho).trans (by simp [Observer.see])
  | tdi b _ ih => exact (ih (o.see (.tdi b)) ho).trans (by simp [Observer.see])
  | tdo b _ ih => exact (ih (o.see (.tdo b)) ho).trans (by simp [Observer.see])
  | pulse _ ih =>
    have hrise : ((o.see (.tck true)).see (.tck false)).edges.length = o.edges.length + 1 := by
      simp [Observer.see, Observer.edge, ho]
    rw [Observer.seeAll_cons, Observer.seeAll_cons, ih _ rfl, hrise]
    simp only [List.count_cons, beq_iff_eq, PinEvent.tck.injEq, Bool.false_eq_true, if_false, if_true]
    omega

/-! ### What a compare record leaves -/

theorem Memory.Fits.writeBytes {m : Memory} {n : Nat} (h : m.Fits n) {v : List Byte} (hv : v.length ≤ n) :
    (m.writeBytes 0 v).Fits n := Memory.writeBytes_fits v h.1 h.2 (by omega)

theorem orBits_fits (answer : Nat → Bool) (k r : Nat) {m : Memory} {n : Nat} (h : m.Fits n) (hk : k + r ≤ 8 * n) :
    (orBits answer k r m).Fits n := by
  induction r generalizing answer k m with
  | zero => exact h
  | succ r ih => exact ih _ _ (Memory.orBit_fits _ h.1 h.2 (by omega)) (by omega)

theorem ceil8_le_iff {bits n : Nat} : ceil8 bits ≤ n ↔ bits ≤ 8 * n := by
  unfold ceil8
  omega

/-- Sampling stays inside the bytes the bit count needs (20_memory.md R54). -/
theorem sampledOut_fits (bits : Nat) (answer : Nat → Bool) {m : Memory} {n : Nat} (h : m.Fits n) (hb : ceil8 bits ≤ n) :
    (sampledOut bits answer m).Fits n :=
  orBits_fits _ _ _ (h.writeBytes (by simpa using hb)) (by simpa using ceil8_le_iff.1 hb)

/-- Every attempt leaves the sample buffer in its range. -/
theorem attempts_outData_fits (bits m r : Nat) {s : State} {n : Nat} (h : s.outData.Fits n) (hb : ceil8 bits ≤ n) :
    (attempts bits m r s).outData.Fits n := by
  induction r generalizing s with
  | zero => exact h
  | succ r ih =>
    have hscan : (scanDrSample bits s).outData.Fits n := by
      rw [scanDrSample_eq]
      exact sampledOut_fits bits _ h hb
    unfold attempts
    dsimp only
    split
    · exact hscan
    · exact ih hscan

/-- The state a compare record leaves after `n` attempts, with these samples and this status. -/
def State.compared (s : State) (ps : List (Byte × Byte)) (n : Nat) (out : Memory) (st : Status) : State :=
  ((((s.compareLoaded ps).skipAnswers (n * s.shiftLength.toNat)).setOutData out).perform
    ((List.range n).flatMap fun b => scanEvents s.cfg.seq.enterSdr s.cfg.seq.exitIdle
      (sampleEvents s.shiftLength.toNat (s.loadPairs ps).inData.bit (s.attemptAnswer s.shiftLength.toNat b))
      s.idleClocks)).setStatus st

/-- A compare record is refused, or makes 1 to 32 attempts and leaves their effect on the pins, the answers and the sample buffer, with
the status as it was or a mismatch (42_compare_retry.md R170, R173). -/
theorem execShiftDataCompare_compared {s t : State} {ps : List (Byte × Byte)}
    (h : exec (.shiftDataCompare ps) s = .next t) :
    (s.shiftLength.toNat = 0 ∧ t = s.setStatus (.refused (.zeroLengthShift s.cfg.opc.shiftDataCompare s.pc))) ∨
    ∃ n out st, 1 ≤ n ∧ n ≤ 32 ∧ ps.length ≤ s.cfg.bufCap ∧ t = s.compared ps n out st ∧
      ∀ cap, s.outData.Fits cap → ceil8 s.shiftLength.toNat ≤ cap → out.Fits cap := by
  obtain ⟨hz, -, ht⟩ | ⟨-, hroom, ht⟩ := execShiftDataCompare_next h
  · exact .inl ⟨hz, ht⟩
  · obtain ⟨a, out, st, he, -, ha, -⟩ := attempts_next s.shiftLength.toNat ps.length 31 (s.compareLoaded ps)
    have hout : t.outData = out := by rw [ht, he]; rfl
    refine .inr ⟨a + 1, out, st, by omega, by omega, hroom, ht.trans he, fun cap hcap hb => ?_⟩
    rw [← hout, ht]
    exact attempts_outData_fits _ _ _ hcap hb

/-! ### What a record writes -/

/-- Settles O40: each record read through its inversion lemma, the retry loop through what attempts leave. -/
theorem accessSummaryOfEveryOpcode : Obligations.AccessSummaryOfEveryOpcode := by
  intro i s t h
  cases i with
  | complete => obtain rfl := execComplete_next h; simp
  | declareTdoMask v => obtain ⟨-, rfl⟩ := execDeclareTdoMask_next h; simp
  | shiftInstruction n v => obtain ⟨-, rfl⟩ | ⟨-, -, rfl⟩ | ⟨-, -, -, rfl⟩ := execShiftInstruction_next h <;> simp
  | shiftData v => obtain ⟨-, -, rfl⟩ | ⟨-, -, rfl⟩ := execShiftData_next h <;> simp
  | declareRunTest c => obtain rfl := execDeclareRunTest_next h; simp
  | declareShiftSize c => obtain ⟨-, rfl⟩ | ⟨-, rfl⟩ := execDeclareShiftSize_next h <;> simp
  | shiftDataCompare ps =>
    obtain ⟨-, rfl⟩ | ⟨n, out, st, -, -, -, rfl, -⟩ := execShiftDataCompare_compared h <;>
      simp [State.compared, State.compareLoaded]

/-- A record performs whole pulses on the pins, and its lines are the ones its events leave. -/
theorem exec_pins {i : Instr} {s t : State} (h : exec i s = .next t) :
    ∃ es, Pulsed es ∧ t.trace = s.trace ++ es ∧ t.lines = linesAfter s.lines es := by
  have quiet (hl : t.lines = s.lines) (ht : t.trace = s.trace) :
      ∃ es, Pulsed es ∧ t.trace = s.trace ++ es ∧ t.lines = linesAfter s.lines es :=
    ⟨[], .nil, by simpa using ht, hl⟩
  cases i with
  | complete => obtain rfl := execComplete_next h; exact quiet rfl rfl
  | declareTdoMask v => obtain ⟨-, rfl⟩ := execDeclareTdoMask_next h; exact quiet rfl rfl
  | declareRunTest c => obtain rfl := execDeclareRunTest_next h; exact quiet rfl rfl
  | declareShiftSize c => obtain ⟨-, rfl⟩ | ⟨-, rfl⟩ := execDeclareShiftSize_next h <;> exact quiet rfl rfl
  | shiftInstruction n v =>
    obtain ⟨-, rfl⟩ | ⟨-, -, rfl⟩ | ⟨-, -, -, rfl⟩ := execShiftInstruction_next h
    · exact quiet rfl rfl
    · exact quiet rfl rfl
    · exact ⟨_, pulsed_scanEvents _ _ (pulsed_shiftEvents _ _) _, rfl, rfl⟩
  | shiftData v =>
    obtain ⟨-, -, rfl⟩ | ⟨-, -, rfl⟩ := execShiftData_next h
    · exact quiet rfl rfl
    · exact ⟨_, pulsed_scanEvents _ _ (pulsed_shiftEvents _ _) _, rfl, rfl⟩
  | shiftDataCompare ps =>
    obtain ⟨-, rfl⟩ | ⟨n, out, st, -, -, -, rfl, -⟩ := execShiftDataCompare_compared h
    · exact quiet rfl rfl
    · exact ⟨_, .flatMap (fun _ => pulsed_scanEvents _ _ (pulsed_sampleEvents _ _ _) _) _, rfl, rfl⟩

/-- A step performs whole pulses on the pins, and its lines are the ones its events leave. -/
theorem step_pins {s t : State} (h : step s = .next t) :
    ∃ es, Pulsed es ∧ t.trace = s.trace ++ es ∧ t.lines = linesAfter s.lines es := by
  obtain ⟨-, rfl⟩ | ⟨-, -, rfl⟩ | ⟨-, i, rest, -, hx⟩ | ⟨-, e, -, rfl⟩ := step_next h
  · exact ⟨[], .nil, by simp, rfl⟩
  · obtain ⟨f, -, hs⟩ | ⟨-, hs⟩ := State.start_cases s <;> rw [hs]
    · exact ⟨[], .nil, by simp, rfl⟩
    · exact ⟨_, pulsed_transitionEvents _, rfl, rfl⟩
  · exact exec_pins hx
  · exact ⟨[], .nil, by simp, rfl⟩

/-- Settles O39: a step performs whole pulses, so from TCK low each `TCK(1)` is an edge. -/
theorem risingEdgesAreTheTckOneEvents : Obligations.RisingEdgesAreTheTckOneEvents := by
  intro s t hshown hlow hedges h
  obtain ⟨es, hp, htr, hl⟩ := step_pins h
  have hobs : (observe s.trace).lines.tck = .driven false := by rw [hshown]; exact hlow
  refine ⟨?_, ?_, ?_⟩
  · have := State.LinesShown.perform hshown es
    rwa [State.LinesShown, State.perform_trace, State.perform_lines, ← htr, ← hl] at this
  · rw [hl]; exact hp.tck_linesAfter _ hlow
  · rw [htr, observe_append, hp.edges_seeAll _ hobs, hedges, List.count_append]


/-! ### The bytes of a decoded record -/

theorem decodeVec_record {mk : List Byte → Instr} {m : Nat} {bs rest : List Byte} {i : Instr}
    (h : decodeVec mk m bs = .record i rest) : ∃ v, i = mk v ∧ v.length = m ∧ bs = v ++ rest := by
  unfold decodeVec at h
  obtain ⟨v, rest', ht, hbs, hv⟩ | ⟨ht, -⟩ := takeBytes_cases m bs <;> rw [ht] at h <;> cases h
  exact ⟨v, rfl, hv, hbs⟩

theorem decodeU32_record {mk : U32 → Instr} {bs rest : List Byte} {i : Instr}
    (h : decodeU32 mk bs = .record i rest) : ∃ c, i = mk c ∧ bs = be32Bytes c ++ rest := by
  unfold decodeU32 at h
  split at h
  · cases h
    exact ⟨_, rfl, by rw [be32Bytes_be32]; rfl⟩
  · cases h

theorem decodeSir_record {bs rest : List Byte} {i : Instr} (h : decodeSir bs = .record i rest) :
    ∃ n v, i = .shiftInstruction n v ∧ v.length = ceil8 n.toNat ∧ bs = n :: (v ++ rest) := by
  unfold decodeSir at h
  split at h
  · cases h
  · next n bs =>
    obtain ⟨v, rest', ht, hbs, hv⟩ | ⟨ht, -⟩ := takeBytes_cases (ceil8 n.toNat) bs <;> rw [ht] at h <;> cases h
    exact ⟨n, v, rfl, hv, by rw [hbs]⟩

theorem decodeCmp_record {m : Nat} {bs rest : List Byte} {i : Instr} (h : decodeCmp m bs = .record i rest) :
    ∃ ps, i = .shiftDataCompare ps ∧ ps.length = m ∧ bs = interleave ps ++ rest := by
  unfold decodeCmp at h
  obtain ⟨v, rest', ht, hbs, hv⟩ | ⟨ht, -⟩ := takeBytes_cases (2 * m) bs <;> rw [ht] at h <;> cases h
  obtain ⟨hi, hl⟩ := interleave_pairUp m v hv
  exact ⟨_, rfl, hl, by rw [hi, hbs]⟩

/-- Whatever decodes to a record is that record's own bytes and the rest (30_encoding.md R72, R75). -/
theorem decode_record {opc : OpcTable} {L : U32} {bs rest : List Byte} {i : Instr}
    (h : decode opc L bs = .record i rest) : i.WellFormed L = true ∧ bs = encode opc i ++ rest := by
  cases bs with
  | nil => cases h
  | cons op bs =>
    rw [decode] at h
    split at h
    · next hop =>
      obtain ⟨v, rfl, hv, rfl⟩ := decodeVec_record h
      exact ⟨by simpa [Instr.WellFormed] using hv, congrArg (· :: _) hop⟩
    split at h
    · next hop =>
      obtain ⟨c, rfl, rfl⟩ := decodeU32_record h
      exact ⟨rfl, congrArg (· :: _) hop⟩
    split at h
    · next hop =>
      obtain ⟨c, rfl, rfl⟩ := decodeU32_record h
      exact ⟨rfl, congrArg (· :: _) hop⟩
    split at h
    · next hop =>
      obtain ⟨n, v, rfl, hv, rfl⟩ := decodeSir_record h
      exact ⟨by simpa [Instr.WellFormed] using hv, congrArg (· :: _) hop⟩
    split at h
    · next hop =>
      obtain ⟨v, rfl, hv, rfl⟩ := decodeVec_record h
      exact ⟨by simpa [Instr.WellFormed] using hv, congrArg (· :: _) hop⟩
    split at h
    · next hop =>
      obtain ⟨ps, rfl, hps, rfl⟩ := decodeCmp_record h
      exact ⟨by simpa [Instr.WellFormed] using hps, congrArg (· :: _) hop⟩
    split at h
    · next hop =>
      cases h
      exact ⟨rfl, congrArg (· :: _) hop⟩
    · cases h

theorem length_encode {i : Instr} {L : U32} (opc : OpcTable) (h : i.WellFormed L = true) :
    (encode opc i).length = recordLength L i := by
  cases i with
  | complete => exact Laws.EncodeLength.complete opc L h
  | declareTdoMask mask => exact Laws.EncodeLength.declareTdoMask mask opc L h
  | shiftInstruction n data => exact Laws.EncodeLength.shiftInstruction n data opc L h
  | shiftData data => exact Laws.EncodeLength.shiftData data opc L h
  | declareRunTest count => exact Laws.EncodeLength.declareRunTest count opc L h
  | declareShiftSize bits => exact Laws.EncodeLength.declareShiftSize bits opc L h
  | shiftDataCompare pairs => exact Laws.EncodeLength.shiftDataCompare pairs opc L h

/-- A fetched record is well formed, takes at least one byte, and lies inside the program (R76, 20_memory.md R53). -/
theorem State.fetch_record {s : State} {i : Instr} {rest : List Byte} (h : s.fetch = .record i rest) :
    i.WellFormed s.shiftLength = true ∧ 1 ≤ recordLength s.shiftLength i ∧
      s.pc + recordLength s.shiftLength i ≤ s.progLen := by
  obtain ⟨hw, hbs⟩ := decode_record h
  have hlen := congrArg List.length hbs
  have hpos : 1 ≤ (encode s.cfg.opc i).length := by simp [encode]
  rw [List.length_append, State.length_programFrom, length_encode _ hw] at hlen
  rw [length_encode _ hw] at hpos
  exact ⟨hw, hpos, by omega⟩

/-! ### The cursor -/

/-- A well-formed record ends the playback where it stands, or moves the cursor by its length (R76, 10_state.md R21). -/
theorem exec_pc {i : Instr} {s t : State} (hw : i.WellFormed s.shiftLength = true) (h : exec i s = .next t) :
    (t.pc = s.pc ∧ t.Ended) ∨ t.pc = s.pc + recordLength s.shiftLength i := by
  cases i with
  | complete => obtain rfl := execComplete_next h; exact .inr rfl
  | declareTdoMask v =>
    obtain ⟨-, rfl⟩ := execDeclareTdoMask_next h
    exact .inr (by simpa [recordLength, Instr.WellFormed] using hw)
  | declareRunTest c => obtain rfl := execDeclareRunTest_next h; exact .inr rfl
  | declareShiftSize c =>
    obtain ⟨-, rfl⟩ | ⟨-, rfl⟩ := execDeclareShiftSize_next h
    · exact .inl ⟨rfl, nofun⟩
    · exact .inr rfl
  | shiftInstruction n v =>
    obtain ⟨-, rfl⟩ | ⟨-, -, rfl⟩ | ⟨-, -, -, rfl⟩ := execShiftInstruction_next h
    · exact .inl ⟨rfl, nofun⟩
    · exact .inl ⟨rfl, nofun⟩
    · exact .inr (by simpa [recordLength, Instr.WellFormed] using hw)
  | shiftData v =>
    obtain ⟨-, -, rfl⟩ | ⟨-, -, rfl⟩ := execShiftData_next h
    · exact .inl ⟨rfl, nofun⟩
    · exact .inr (by simpa [recordLength, Instr.WellFormed] using hw)
  | shiftDataCompare ps =>
    obtain ⟨-, rfl⟩ | ⟨n, out, st, -, -, -, rfl, -⟩ := execShiftDataCompare_compared h
    · exact .inl ⟨rfl, nofun⟩
    · exact .inr (by simpa [State.compared, State.compareLoaded, recordLength, Instr.WellFormed] using hw)

/-- Settles O43: the fetched record lies inside the program, and running it moves the cursor by its length. -/
theorem cursorMovesByTheRecordLength : Obligations.CursorMovesByTheRecordLength := by
  intro s t ⟨hrun, hdone⟩ hinv h
  obtain ⟨⟨r, hr⟩, -⟩ | ⟨-, hp, -⟩ | ⟨-, i, rest, hf, hx⟩ | ⟨-, e, -, rfl⟩ := step_next h
  · rw [hrun] at hr; cases hr
  · rw [hdone] at hp; cases hp
  · obtain ⟨hw, hpos, hle⟩ := State.fetch_record hf
    obtain ⟨-, -, hprogLen, -⟩ := accessSummaryOfEveryOpcode i s t hx
    obtain hend | hpc := exec_pc hw hx
    · exact .inl hend
    · exact .inr ⟨i, rest, hf, hpc, hpos, by rw [hpc, hprogLen]; exact hle⟩
  · exact .inl ⟨rfl, nofun⟩

/-! ### The invariant, one rule per state operation -/

theorem State.Inv.setStatus {s : State} (h : s.Inv) (st : Status) : (s.setStatus st).Inv := { h with }

theorem State.Inv.setIdleClocks {s : State} (h : s.Inv) (c : U32) : (s.setIdleClocks c).Inv := { h with }

theorem State.Inv.setShiftLength {s : State} (h : s.Inv) {c : U32} (hc : c.toNat ≤ s.capacityBits) :
    (s.setShiftLength c).Inv := { h with shiftLength_le := hc }

theorem State.Inv.skipAnswers {s : State} (h : s.Inv) (n : Nat) : (s.skipAnswers n).Inv := { h with }

theorem State.Inv.loadMask {s : State} (h : s.Inv) {v : List Byte} (hv : v.length ≤ s.cfg.bufCap) :
    (s.loadMask v).Inv := { h with inMask_fits := h.inMask_fits.writeBytes hv }

theorem State.Inv.loadData {s : State} (h : s.Inv) {v : List Byte} (hv : v.length ≤ s.cfg.bufCap) :
    (s.loadData v).Inv := { h with inData_fits := h.inData_fits.writeBytes hv }

theorem State.Inv.loadExpected {s : State} (h : s.Inv) {v : List Byte} (hv : v.length ≤ s.cfg.bufCap) :
    (s.loadExpected v).Inv := { h with expData_fits := h.expData_fits.writeBytes hv }

theorem State.Inv.setOutData {s : State} (h : s.Inv) {m : Memory} (hm : m.Fits s.cfg.bufCap) :
    (s.setOutData m).Inv := { h with outData_fits := hm }

/-- The cursor moves only once the prologue is done, and inside the program. -/
theorem State.Inv.advance {s : State} (h : s.Inv) (hp : s.prologueDone = true) {n : Nat} (hn : s.pc + n ≤ s.progLen) :
    (s.advance n).Inv := { h with pc_le := hn, fresh := fun hf => by simp [hp] at hf }

/-- Whole pulses keep the invariant, and mark the prologue as done or find it so. -/
theorem State.Inv.perform {s : State} (h : s.Inv) {es : List PinEvent} (hes : Pulsed es) :
    ((s.perform es).markPrologue).Inv :=
  { h with
    lines_shown := h.lines_shown.perform es
    tck_low := hes.tck_linesAfter _ h.tck_low
    fresh := nofun }

theorem State.markPrologue_eq {s : State} (h : s.prologueDone = true) : s.markPrologue = s := by
  simp [State.markPrologue, ← h]

theorem State.Inv.performDone {s : State} (h : s.Inv) (hp : s.prologueDone = true) {es : List PinEvent} (hes : Pulsed es) :
    (s.perform es).Inv := by
  have := h.perform hes
  rwa [State.markPrologue_eq (by simpa using hp)] at this

theorem State.Inv.start {s : State} (h : s.Inv) : s.start.Inv := by
  obtain ⟨f, -, hs⟩ | ⟨-, hs⟩ := State.start_cases s <;> rw [hs]
  · exact h.setStatus _
  · exact h.perform (pulsed_transitionEvents _)

/-- A record that is well formed and lies inside the program keeps the invariant. -/
theorem exec_keeps_inv {i : Instr} {s t : State} (hinv : s.Inv) (hp : s.prologueDone = true)
    (hw : i.WellFormed s.shiftLength = true) (hle : s.pc + recordLength s.shiftLength i ≤ s.progLen)
    (h : exec i s = .next t) : t.Inv := by
  cases i with
  | complete =>
    obtain rfl := execComplete_next h
    exact (hinv.advance hp hle).setStatus _
  | declareTdoMask v =>
    obtain ⟨hroom, rfl⟩ := execDeclareTdoMask_next h
    have hv : v.length = ceil8 s.shiftLength.toNat := by simpa [Instr.WellFormed] using hw
    exact (hinv.loadMask hroom).advance hp (by rw [hv]; exact hle)
  | declareRunTest c =>
    obtain rfl := execDeclareRunTest_next h
    exact (hinv.setIdleClocks c).advance hp hle
  | declareShiftSize c =>
    obtain ⟨-, rfl⟩ | ⟨hc, rfl⟩ := execDeclareShiftSize_next h
    · exact hinv.setStatus _
    · exact (hinv.setShiftLength hc).advance hp hle
  | shiftInstruction n v =>
    have hv : v.length = ceil8 n.toNat := by simpa [Instr.WellFormed] using hw
    obtain ⟨-, rfl⟩ | ⟨-, -, rfl⟩ | ⟨-, -, hroom, rfl⟩ := execShiftInstruction_next h
    · exact hinv.setStatus _
    · exact hinv.setStatus _
    · exact ((hinv.loadData hroom).advance hp (by rw [hv]; exact hle)).performDone hp
        (pulsed_scanEvents _ _ (pulsed_shiftEvents _ _) _)
  | shiftData v =>
    have hv : v.length = ceil8 s.shiftLength.toNat := by simpa [Instr.WellFormed] using hw
    obtain ⟨-, -, rfl⟩ | ⟨-, hroom, rfl⟩ := execShiftData_next h
    · exact hinv.setStatus _
    · exact ((hinv.loadData hroom).advance hp (by rw [hv]; exact hle)).performDone hp
        (pulsed_scanEvents _ _ (pulsed_shiftEvents _ _) _)
  | shiftDataCompare ps =>
    have hv : ps.length = ceil8 s.shiftLength.toNat := by simpa [Instr.WellFormed] using hw
    obtain ⟨-, rfl⟩ | ⟨n, out, st, -, -, hroom, rfl, hfits⟩ := execShiftDataCompare_compared h
    · exact hinv.setStatus _
    · have hout : out.Fits s.cfg.bufCap := hfits _ hinv.outData_fits (ceil8_le_iff.2 hinv.shiftLength_le)
      have hloaded : (s.compareLoaded ps).Inv :=
        ((hinv.loadData (by simpa using hroom)).loadExpected (by simpa using hroom)).advance hp (by rw [hv]; exact hle)
      exact (((hloaded.skipAnswers _).setOutData hout).performDone hp
        (.flatMap (fun _ => pulsed_scanEvents _ _ (pulsed_sampleEvents _ _ _) _) _)).setStatus st

/-- Settles O35: the start and every record keep the invariant, and an ending playback changes the status only. -/
theorem stepKeepsTheInvariant : Obligations.StepKeepsTheInvariant := by
  intro s t hinv h
  obtain ⟨-, rfl⟩ | ⟨-, -, rfl⟩ | ⟨⟨-, hp⟩, i, rest, hf, hx⟩ | ⟨-, e, -, rfl⟩ := step_next h
  · exact hinv
  · exact hinv.start
  · obtain ⟨hw, -, hle⟩ := State.fetch_record hf
    exact exec_keeps_inv hinv hp hw hle hx
  · exact hinv.setStatus _

end Sys2Proof.Machine

/-! PROOFS, family of 10_state.md: what a target at rest in Run-Test/Idle takes in and gives out during a shift. -/

namespace Sys2Proof.Machine

/-! ### The target between pulses -/

/-- The target takes in TDI at an edge out of these states (10_state.md R37). -/
def TapState.isShift (t : TapState) : Bool := t == .shiftIr || t == .shiftDr

theorem TapState.isShift_iff {t : TapState} : t.isShift = true ↔ t = .shiftIr ∨ t = .shiftDr := by
  simp [TapState.isShift]

/-- With TMS low a target stays in its Shift state (R36). -/
theorem TapState.next_false_of_isShift {t : TapState} (h : t.isShift = true) : t.next false = t := by
  obtain rfl | rfl := TapState.isShift_iff.1 h <;> rfl

/-- Each pulse in a Shift state goes on to the next output bit (R37). -/
theorem TapState.outputAfterEdge_of_isShift {t : TapState} (h : t.isShift = true) (l : Level) (k : Nat) :
    t.outputAfterEdge l (some k) = some (k + 1) := by
  obtain rfl | rfl := TapState.isShift_iff.1 h <;> rfl

theorem inShift_of_known {taps : List TapState} {t : TapState} (h : knownTap taps = some t) :
    inShift taps = t.isShift := by
  simp [inShift, TapState.isShift, h]

/-- A known TAP moves along the graph of R36. -/
theorem knownTap_tapsAfterEdge {taps : List TapState} {t : TapState} (h : knownTap taps = some t) (b : Bool) :
    knownTap (tapsAfterEdge taps (.driven b)) = some (t.next b) := by
  obtain ⟨hne, hall⟩ := knownTap_eq_some.1 h
  refine knownTap_eq_some.2 ⟨by simpa [tapsAfterEdge] using hne, fun u hu => ?_⟩
  obtain ⟨v, hv, rfl⟩ := List.mem_map.1 hu
  rw [hall v hv]

/-- Between pulses: TCK low, TMS driven to a level, the target's TAP known, and the number of the output bit on TDO, which is also the
one the next falling edge would present. -/
structure Observer.AtRest (o : Observer) (tap : TapState) (tms : Bool) (out : Option Nat) : Prop where
  tck_low : o.lines.tck = .driven false
  tms_driven : o.lines.tms = .driven tms
  tap_known : knownTap o.taps = some tap
  presented : o.presented = out
  pending : o.pending = out

/-- From `o` to `o'` the target took in these TDI levels, and the samples read these output bits (R37). -/
structure Observer.Took (o o' : Observer) (bits : List Level) (outs : List (Nat × Bool)) : Prop where
  shifted : o'.shifted = o.shifted ++ bits
  outputs : o'.outputs = o.outputs ++ outs

theorem Observer.Took.refl (o : Observer) : o.Took o [] [] := ⟨by simp, by simp⟩

theorem Observer.Took.trans {o o' o'' : Observer} {bits bits' : List Level} {outs outs' : List (Nat × Bool)}
    (h : o.Took o' bits outs) (h' : o'.Took o'' bits' outs') : o.Took o'' (bits ++ bits') (outs ++ outs') :=
  ⟨by rw [h'.shifted, h.shifted, List.append_assoc], by rw [h'.outputs, h.outputs, List.append_assoc]⟩

/-- While TCK is low the target presents the bit that the last falling edge settled. -/
theorem presented_observe (tr : List PinEvent) :
    (observe tr).lines.tck = .driven false → (observe tr).presented = (observe tr).pending := by
  suffices h : ∀ o : Observer, (o.lines.tck = .driven false → o.presented = o.pending) →
      (o.seeAll tr).lines.tck = .driven false → (o.seeAll tr).presented = (o.seeAll tr).pending from
    h Observer.start fun _ => rfl
  induction tr with
  | nil => exact fun _ h => h
  | cons e tr ih =>
    refine fun o h => ih _ ?_
    cases e with
    | tck b =>
      cases b with
      | false => exact fun _ => rfl
      | true => exact nofun
    | tms b => exact h
    | tdi b => exact h
    | tdo b => exact h

/-- A state that rests in Run-Test/Idle after the prologue has its target at rest there. -/
theorem State.RestsIdle.atRest {s : State} (h : s.RestsIdle) (hp : s.prologueDone = true) :
    ∃ out, (observe s.trace).AtRest .runTestIdle false out := by
  obtain ⟨hshown, hlow, hidle⟩ := h
  obtain ⟨htap, htms⟩ := hidle hp
  have hlow' : (observe s.trace).lines.tck = .driven false := by rw [hshown]; exact hlow
  exact ⟨_, hlow', by rw [hshown]; exact htms, htap, presented_observe _ hlow', rfl⟩

namespace Observer.AtRest

variable {o : Observer} {t : TapState} {b : Bool} {out : Option Nat}

/-- A TMS write moves the level only. -/
theorem see_tms (h : o.AtRest t b out) (c : Bool) : (o.see (.tms c)).AtRest t c out ∧ o.Took (o.see (.tms c)) [] [] :=
  ⟨⟨h.tck_low, rfl, h.tap_known, h.presented, h.pending⟩, ⟨by simp [see], by simp [see]⟩⟩

/-- A TDI write leaves the target at rest, with that level on TDI. -/
theorem see_tdi (h : o.AtRest t b out) (c : Bool) : (o.see (.tdi c)).AtRest t b out ∧
    o.Took (o.see (.tdi c)) [] [] ∧ (o.see (.tdi c)).lines.tdi = .driven c :=
  ⟨⟨h.tck_low, h.tms_driven, h.tap_known, h.presented, h.pending⟩, ⟨by simp [see], by simp [see]⟩, rfl⟩

/-- A sample of a target at rest in a Shift state reads the output bit it presents. -/
theorem see_tdo {k : Nat} (h : o.AtRest t b (some k)) (ht : t.isShift = true) (a : Bool) :
    (o.see (.tdo a)).AtRest t b (some k) ∧ o.Took (o.see (.tdo a)) [] [(k, a)] ∧
      (o.see (.tdo a)).lines.tdi = o.lines.tdi := by
  refine ⟨⟨h.tck_low, h.tms_driven, h.tap_known, h.presented, h.pending⟩, ⟨by simp [see], ?_⟩, rfl⟩
  simp [see, sampledOutput, inShift_of_known h.tap_known, ht, h.presented]

/-- A pulse moves the TAP with the TMS level driven; a target in a Shift state takes in TDI (R36, R37). -/
theorem see_pulse (h : o.AtRest t b out) :
    (o.seeAll pulseEvents).AtRest (t.next b) b (t.outputAfterEdge (.driven b) out) ∧
      o.Took (o.seeAll pulseEvents) (if t.isShift then [o.lines.tdi] else []) [] := by
  obtain ⟨hpres, hpend⟩ := presented_pulse o h.tck_low
  rw [h.tap_known, h.tms_driven, h.pending] at hpres
  refine ⟨⟨rfl, ?_, ?_, hpres, hpend.trans hpres⟩, ⟨?_, ?_⟩⟩
  · rw [lines_seeAll]
    exact h.tms_driven
  · simpa [pulseEvents, see, edge, h.tck_low, h.tms_driven] using knownTap_tapsAfterEdge h.tap_known b
  · cases ht : t.isShift <;> simp [pulseEvents, see, edge, h.tck_low, inShift_of_known h.tap_known, ht]
  · simp [pulseEvents, see, edge, h.tck_low]

end Observer.AtRest

/-! ### Transitions outside the Shift states -/

/-- TMS levels that leave no Shift state from `t`: the target takes in nothing along them. -/
def TapState.avoidsShift : TapState → List Bool → Bool
  | _, [] => true
  | t, b :: bs => !t.isShift && (t.next b).avoidsShift bs

/-- The output bit on TDO after pulses with these TMS levels. -/
def TapState.outputAfter : TapState → Option Nat → List Bool → Option Nat
  | _, out, [] => out
  | t, out, b :: bs => (t.next b).outputAfter (t.outputAfterEdge (.driven b) out) bs

/-- The events of clock-FSM, by the levels it drives. -/
theorem transitionEvents_eq (q : Transition) :
    transitionEvents q = (transitionLevels q).flatMap fun b => .tms b :: pulseEvents := by
  simp [transitionEvents, fsmEvents, transitionLevels, List.flatMap_map]

namespace Observer.AtRest

variable {o : Observer} {t : TapState} {b : Bool} {out : Option Nat}

/-- Along TMS levels that leave no Shift state the TAP moves and nothing is taken in. -/
theorem see_levels (h : o.AtRest t b out) (ls : List Bool) (hq : t.avoidsShift ls = true) :
    (o.seeAll (ls.flatMap fun c => .tms c :: pulseEvents)).AtRest (t.after ls) (ls.getLastD b) (t.outputAfter out ls) ∧
      o.Took (o.seeAll (ls.flatMap fun c => .tms c :: pulseEvents)) [] [] := by
  induction ls generalizing o t b out with
  | nil => exact ⟨h, .refl o⟩
  | cons c ls ih =>
    simp only [TapState.avoidsShift, Bool.and_eq_true, Bool.not_eq_true'] at hq
    obtain ⟨hns, hq⟩ := hq
    obtain ⟨hm, km⟩ := h.see_tms c
    obtain ⟨hp, kp⟩ := hm.see_pulse
    obtain ⟨hl, kl⟩ := ih hp hq
    simp only [hns] at kp
    rw [List.flatMap_cons, seeAll_append, seeAll_cons, List.getLastD_cons]
    exact ⟨hl, (km.trans kp).trans kl⟩

theorem see_transition (h : o.AtRest t b out) (q : Transition) (hq : t.avoidsShift (transitionLevels q) = true) :
    (o.seeAll (transitionEvents q)).AtRest (t.after (transitionLevels q)) ((transitionLevels q).getLastD b)
        (t.outputAfter out (transitionLevels q)) ∧
      o.Took (o.seeAll (transitionEvents q)) [] [] := by
  rw [transitionEvents_eq]
  exact h.see_levels _ hq

/-- Idle pulses keep the target in Run-Test/Idle (40_kernels.md R102). -/
theorem see_idle (h : o.AtRest .runTestIdle false out) (n : Nat) :
    ∃ out', (o.seeAll (idleEvents n)).AtRest .runTestIdle false out' ∧ o.Took (o.seeAll (idleEvents n)) [] [] := by
  induction n generalizing o out with
  | zero => exact ⟨out, h, .refl o⟩
  | succ n ih =>
    obtain ⟨hp, kp⟩ := h.see_pulse
    obtain ⟨out', hi, ki⟩ := ih hp
    rw [idleEvents_succ, seeAll_append]
    exact ⟨out', hi, kp.trans ki⟩

end Observer.AtRest

/-! ### Shifts -/

/-- The events of bit `k` of a shift of `n` bits, with the samples taken in it: none (R103) or one (R105). -/
def bitEvents (n : Nat) (bit : Nat → Bool) (samples : Nat → List Bool) (k : Nat) : List PinEvent :=
  .tdi (bit k) :: ((samples k).map .tdo ++ (finalTms n k ++ pulseEvents))

theorem shiftEvents_eq (n : Nat) (bit : Nat → Bool) :
    shiftEvents n bit = (List.range n).flatMap (bitEvents n bit fun _ => []) := rfl

theorem sampleEvents_eq (n : Nat) (bit answer : Nat → Bool) :
    sampleEvents n bit answer = (List.range n).flatMap (bitEvents n bit fun k => [answer k]) := rfl

namespace Observer.AtRest

variable {o : Observer} {t : TapState} {b : Bool} {k : Nat}

theorem see_samples (h : o.AtRest t b (some k)) (ht : t.isShift = true) (as : List Bool) :
    (o.seeAll (as.map .tdo)).AtRest t b (some k) ∧
      o.Took (o.seeAll (as.map .tdo)) [] (as.map fun a => (k, a)) ∧
      (o.seeAll (as.map .tdo)).lines.tdi = o.lines.tdi := by
  induction as generalizing o with
  | nil => exact ⟨h, .refl o, rfl⟩
  | cons a as ih =>
    obtain ⟨ha, ka, la⟩ := h.see_tdo ht a
    obtain ⟨hs, ks, ls⟩ := ih ha
    exact ⟨hs, ka.trans ks, ls.trans la⟩

/-- TMS goes high before the last bit's pulse and stays low on the others (R103). -/
theorem see_finalTms (h : o.AtRest t false (some k)) (n : Nat) :
    (o.seeAll (finalTms n k)).AtRest t (decide (k + 1 = n)) (some k) ∧ o.Took (o.seeAll (finalTms n k)) [] [] ∧
      (o.seeAll (finalTms n k)).lines.tdi = o.lines.tdi := by
  unfold finalTms
  split
  · next hk =>
    rw [decide_eq_true hk]
    exact ⟨(h.see_tms true).1, (h.see_tms true).2, rfl⟩
  · next hk =>
    rw [decide_eq_false hk]
    exact ⟨h, .refl o, rfl⟩

/-- One bit of a shift: the target takes it in, its samples read output bit `k`, and output bit `k + 1` is next. -/
theorem see_bit (h : o.AtRest t false (some k)) (ht : t.isShift = true) (n : Nat) (bit : Nat → Bool)
    (samples : Nat → List Bool) :
    (o.seeAll (bitEvents n bit samples k)).AtRest (t.next (decide (k + 1 = n))) (decide (k + 1 = n)) (some (k + 1)) ∧
      o.Took (o.seeAll (bitEvents n bit samples k)) [.driven (bit k)] ((samples k).map fun a => (k, a)) := by
  obtain ⟨hd, kd, ld⟩ := h.see_tdi (bit k)
  obtain ⟨hs, ks, ls⟩ := hd.see_samples ht (samples k)
  obtain ⟨hf, kf, lf⟩ := hs.see_finalTms n
  obtain ⟨hp, kp⟩ := hf.see_pulse
  rw [TapState.outputAfterEdge_of_isShift ht] at hp
  rw [ht, if_pos rfl, lf, ls, ld] at kp
  rw [bitEvents, seeAll_cons, seeAll_append, seeAll_append]
  exact ⟨hp, by simpa using ((kd.trans ks).trans kf).trans kp⟩

/-- All bits of a shift but the last: the target stays in its Shift state. -/
theorem see_bits (h : o.AtRest t false (some 0)) (ht : t.isShift = true) (n : Nat) (bit : Nat → Bool)
    (samples : Nat → List Bool) (m : Nat) (hm : m < n) :
    (o.seeAll ((List.range m).flatMap (bitEvents n bit samples))).AtRest t false (some m) ∧
      o.Took (o.seeAll ((List.range m).flatMap (bitEvents n bit samples)))
        ((List.range m).map fun k => .driven (bit k))
        ((List.range m).flatMap fun k => (samples k).map fun a => (k, a)) := by
  induction m with
  | zero => exact ⟨h, .refl o⟩
  | succ m ih =>
    obtain ⟨hs, ks⟩ := ih (by omega)
    obtain ⟨hb, kb⟩ := hs.see_bit ht n bit samples
    rw [decide_eq_false (by omega), TapState.next_false_of_isShift ht] at hb
    simp only [List.range_succ, List.flatMap_append, List.map_append, List.flatMap_singleton, List.map_singleton]
    rw [seeAll_append]
    exact ⟨hb, ks.trans kb⟩

/-- A whole shift of at least one bit: every bit is taken in, in order, sample `k` reads output bit `k`, and the last pulse leaves the
Shift state (R103, R104, R106). -/
theorem see_shift (h : o.AtRest t false (some 0)) (ht : t.isShift = true) {n : Nat} (hn : n ≠ 0) (bit : Nat → Bool)
    (samples : Nat → List Bool) :
    (o.seeAll ((List.range n).flatMap (bitEvents n bit samples))).AtRest (t.next true) true (some n) ∧
      o.Took (o.seeAll ((List.range n).flatMap (bitEvents n bit samples)))
        ((List.range n).map fun k => .driven (bit k))
        ((List.range n).flatMap fun k => (samples k).map fun a => (k, a)) := by
  obtain ⟨m, rfl⟩ := Nat.exists_eq_succ_of_ne_zero hn
  obtain ⟨hs, ks⟩ := h.see_bits ht (m + 1) bit samples m (by omega)
  obtain ⟨hb, kb⟩ := hs.see_bit ht (m + 1) bit samples
  rw [decide_eq_true rfl] at hb
  simp only [Nat.succ_eq_add_one, List.range_succ (n := m), List.flatMap_append, List.map_append,
    List.flatMap_singleton, List.map_singleton]
  rw [seeAll_append]
  exact ⟨hb, ks.trans kb⟩

end Observer.AtRest

/-! ### Scans -/

/-- The transition takes a target from Run-Test/Idle to this Shift state with TMS low, taking in nothing on the way, and the first output
bit is then on TDO (40_kernels.md R112, R113). -/
structure Enters (q : Transition) (t : TapState) : Prop where
  isShift : t.isShift = true
  avoids : TapState.runTestIdle.avoidsShift (transitionLevels q) = true
  reaches : TapState.runTestIdle.after (transitionLevels q) = t
  low : (transitionLevels q).getLastD false = false
  firstOutput : ∀ out, TapState.runTestIdle.outputAfter out (transitionLevels q) = some 0

/-- After the last pulse of a shift in this state, the transition takes the target back to Run-Test/Idle with TMS low (R112). -/
structure Exits (q : Transition) (t : TapState) : Prop where
  avoids : (t.next true).avoidsShift (transitionLevels q) = true
  reaches : (t.next true).after (transitionLevels q) = .runTestIdle
  low : (transitionLevels q).getLastD true = false

theorem enters_defaultSir : Enters defaultSeq.enterSir .shiftIr := ⟨rfl, rfl, rfl, rfl, fun _ => rfl⟩

theorem enters_defaultSdr : Enters defaultSeq.enterSdr .shiftDr := ⟨rfl, rfl, rfl, rfl, fun _ => rfl⟩

theorem exits_defaultIr : Exits defaultSeq.exitIdle .shiftIr := ⟨rfl, rfl, rfl⟩

theorem exits_defaultDr : Exits defaultSeq.exitIdle .shiftDr := ⟨rfl, rfl, rfl⟩

namespace Observer.AtRest

variable {o : Observer} {t : TapState} {out : Option Nat} {enter exit : Transition}

/-- A scan from Run-Test/Idle and back: the target takes in exactly the bits of the shift, and the samples read the output bits of their
numbers (R37, R115, R116). -/
theorem see_scan (h : o.AtRest .runTestIdle false out) (he : Enters enter t) (hx : Exits exit t) {n : Nat} (hn : n ≠ 0)
    (bit : Nat → Bool) (samples : Nat → List Bool) (idle : U32) :
    let o' := o.seeAll (scanEvents enter exit ((List.range n).flatMap (bitEvents n bit samples)) idle)
    (∃ out', o'.AtRest .runTestIdle false out') ∧
      o.Took o' ((List.range n).map fun k => .driven (bit k))
        ((List.range n).flatMap fun k => (samples k).map fun a => (k, a)) := by
  obtain ⟨h1, k1⟩ := h.see_transition enter he.avoids
  rw [he.reaches, he.low, he.firstOutput] at h1
  obtain ⟨h2, k2⟩ := h1.see_shift he.isShift hn bit samples
  obtain ⟨h3, k3⟩ := h2.see_transition exit hx.avoids
  rw [hx.reaches, hx.low] at h3
  obtain ⟨out', h4, k4⟩ := h3.see_idle idle.toNat
  simp only [scanEvents, seeAll_append]
  exact ⟨⟨out', h4⟩, by simpa using ((k1.trans k2).trans k3).trans k4⟩

/-- Any number of sampling scans: each takes in the same bits and numbers its output bits from 0 anew (R172). -/
theorem see_attempts (h : o.AtRest .runTestIdle false out) (he : Enters enter t) (hx : Exits exit t) {n : Nat} (hn : n ≠ 0)
    (bit : Nat → Bool) (answer : Nat → Nat → Bool) (idle : U32) (tries : Nat) :
    let o' := o.seeAll ((List.range tries).flatMap fun a =>
      scanEvents enter exit (sampleEvents n bit (answer a)) idle)
    (∃ out', o'.AtRest .runTestIdle false out') ∧
      o.Took o' ((List.range tries).flatMap fun _ => (List.range n).map fun k => .driven (bit k))
        ((List.range tries).flatMap fun a => (List.range n).map fun k => (k, answer a k)) := by
  induction tries with
  | zero => exact ⟨⟨out, h⟩, .refl o⟩
  | succ tries ih =>
    obtain ⟨⟨out', hs⟩, ks⟩ := ih
    obtain ⟨hr, kr⟩ := hs.see_scan he hx hn bit (fun k => [answer tries k]) idle
    simp only [← sampleEvents_eq, List.map_singleton, ← List.map_eq_flatMap] at hr kr
    simp only [List.range_succ (n := tries), List.flatMap_append, List.flatMap_singleton, seeAll_append]
    exact ⟨hr, ks.trans kr⟩

end Observer.AtRest

/-! ### The bits of an operand -/

/-- A buffer loaded with an operand holds the operand's bits (20_memory.md R57). -/
theorem Memory.bit_writeBytes (m : Memory) {v : List Byte} {bits k : Nat} (hv : v.length = ceil8 bits) (hk : k < bits) :
    (m.writeBytes 0 v).bit k = bitAt v k := by
  have hin : k / 8 < v.length := by
    unfold ceil8 at hv
    omega
  rw [Memory.bit, Memory.read_writeBytes, if_pos ⟨Nat.zero_le _, by omega⟩]
  rfl

theorem operandLevels_eq (m : Memory) {v : List Byte} {bits : Nat} (hv : v.length = ceil8 bits) :
    ((List.range bits).map fun k => Level.driven ((m.writeBytes 0 v).bit k)) =
      (List.range bits).map fun k => .driven (bitAt v k) :=
  List.map_congr_left fun k hk => by rw [Memory.bit_writeBytes m hv (List.mem_range.1 hk)]

/-- A scan of a loaded operand without samples, from Run-Test/Idle: the target takes in the operand's bits (R104). -/
theorem shifted_of_scan {s t : State} {out : Option Nat} {tap : TapState} {enter exit : Transition} {n : Nat} {v : List Byte}
    {m : Memory} {idle : U32} (hs : (observe s.trace).AtRest .runTestIdle false out) (he : Enters enter tap)
    (hx : Exits exit tap) (hn : n ≠ 0) (hv : v.length = ceil8 n)
    (ht : t.trace = s.trace ++ scanEvents enter exit (shiftEvents n (m.writeBytes 0 v).bit) idle) :
    (observe t.trace).shifted = (observe s.trace).shifted ++ (List.range n).map fun k => .driven (bitAt v k) := by
  obtain ⟨-, htook⟩ := hs.see_scan he hx hn (m.writeBytes 0 v).bit (fun _ => []) idle
  rw [ht, observe_append, shiftEvents_eq, htook.shifted, operandLevels_eq m hv]

/-- The attempts of a compare record from Run-Test/Idle: each takes in the operand's data bits, and sample `k` of each reads output bit
`k` (R104, R106, R172). -/
theorem took_of_compared {s : State} {out : Option Nat} {tap : TapState} {ps : List (Byte × Byte)} {n : Nat} {smp : Memory}
    {st : Status} (hs : (observe s.trace).AtRest .runTestIdle false out) (he : Enters s.cfg.seq.enterSdr tap)
    (hx : Exits s.cfg.seq.exitIdle tap) (hL : s.shiftLength.toNat ≠ 0)
    (hv : (ps.map Prod.fst).length = ceil8 s.shiftLength.toNat) :
    (observe s.trace).Took (observe (s.compared ps n smp st).trace)
      ((List.range n).flatMap fun _ =>
        (List.range s.shiftLength.toNat).map fun k => .driven (bitAt (ps.map Prod.fst) k))
      ((List.range n).flatMap fun a =>
        (List.range s.shiftLength.toNat).map fun k => (k, s.attemptAnswer s.shiftLength.toNat a k)) := by
  obtain ⟨-, htook⟩ := hs.see_attempts he hx hL (s.inData.writeBytes 0 (ps.map Prod.fst)).bit
    (s.attemptAnswer s.shiftLength.toNat) s.idleClocks n
  rwa [operandLevels_eq s.inData hv, ← observe_append] at htook

/-- Settles O38: each shift is a scan from Run-Test/Idle with the operand in the buffer, a compare record one scan per attempt. -/
theorem targetTakesInExactlyTheOperandBits : Obligations.TargetTakesInExactlyTheOperandBits := by
  intro s t hseq hrest hp before after
  obtain ⟨out, hidle⟩ := hrest.atRest hp
  have hir : Enters s.cfg.seq.enterSir .shiftIr := by rw [hseq]; exact enters_defaultSir
  have hdr : Enters s.cfg.seq.enterSdr .shiftDr := by rw [hseq]; exact enters_defaultSdr
  have hxir : Exits s.cfg.seq.exitIdle .shiftIr := by rw [hseq]; exact exits_defaultIr
  have hxdr : Exits s.cfg.seq.exitIdle .shiftDr := by rw [hseq]; exact exits_defaultDr
  refine ⟨fun n data hw hn hcap h => ?_, fun data hw hL h => ?_, fun ps hw hL h => ?_⟩
  · have hv : data.length = ceil8 n.toNat := by simpa [Instr.WellFormed] using hw
    obtain ⟨hbig, -⟩ | ⟨hz, -⟩ | ⟨-, -, -, ht⟩ := execShiftInstruction_next h
    · exact absurd hcap (Nat.not_le.2 hbig)
    · exact absurd hz (BitVec.toNat_ne.1 hn)
    · exact shifted_of_scan hidle hir hxir (BitVec.toNat_ne.1 hn) hv (congrArg State.trace ht)
  · have hv : data.length = ceil8 s.shiftLength.toNat := by simpa [Instr.WellFormed] using hw
    obtain ⟨hz, -⟩ | ⟨-, -, ht⟩ := execShiftData_next h
    · exact absurd hz (BitVec.toNat_ne.1 hL)
    · exact shifted_of_scan hidle hdr hxdr (BitVec.toNat_ne.1 hL) hv (congrArg State.trace ht)
  · have hv : (ps.map Prod.fst).length = ceil8 s.shiftLength.toNat := by simpa [Instr.WellFormed] using hw
    obtain ⟨hz, -⟩ | ⟨n, smp, st, hn1, hn32, -, rfl, -⟩ := execShiftDataCompare_compared h
    · exact absurd hz (BitVec.toNat_ne.1 hL)
    · have htook := took_of_compared (n := n) (smp := smp) (st := st) hidle hdr hxdr (BitVec.toNat_ne.1 hL) hv
      exact ⟨n, hn1, hn32, htook.shifted, htook.outputs⟩

end Sys2Proof.Machine

/-! PROOFS, family of 20_memory.md: big-endian counts, the bit order of shift data, buffer accesses in range, the program as given. -/

namespace Sys2Proof.Machine

/-! ### Big-endian counts -/

theorem decode_declareRunTest {opc : OpcTable} (h : opcDistinct opc = true) (L : U32) (bs : List Byte) :
    decode opc L (opc.declareRunTest :: bs) = decodeU32 .declareRunTest bs := by
  obtain ⟨-, ⟨-, -, hmask, -⟩, -⟩ := opcDistinct_ne h
  rw [decode, if_neg hmask.symm, if_pos rfl]

theorem decode_declareShiftSize {opc : OpcTable} (h : opcDistinct opc = true) (L : U32) (bs : List Byte) :
    decode opc L (opc.declareShiftSize :: bs) = decodeU32 .declareShiftSize bs := by
  obtain ⟨-, ⟨-, -, -, hmask, -⟩, -, -, ⟨hrun, -⟩, -⟩ := opcDistinct_ne h
  rw [decode, if_neg hmask.symm, if_neg hrun.symm, if_pos rfl]

/-- Settles O4: both `U32` records take their count from `be32` of the next four bytes. -/
theorem countsAreBigEndian : Obligations.CountsAreBigEndian := by
  intro opc L b0 b1 b2 b3 rest hd
  refine ⟨be32 b0 b1 b2 b3, toNat_be32 b0 b1 b2 b3, ?_, ?_⟩
  · rw [decode_declareRunTest hd]; rfl
  · rw [decode_declareShiftSize hd]; rfl

/-! ### The program is never written -/

theorem State.start_program (s : State) : s.start.prog = s.prog ∧ s.start.progLen = s.progLen ∧ s.start.cfg = s.cfg := by
  obtain ⟨f, -, hs⟩ | ⟨-, hs⟩ := State.start_cases s <;> simp [hs]

theorem step_program {s t : State} (h : step s = .next t) :
    t.prog = s.prog ∧ t.progLen = s.progLen ∧ t.cfg = s.cfg := by
  obtain ⟨-, rfl⟩ | ⟨-, -, rfl⟩ | ⟨-, i, rest, -, hx⟩ | ⟨-, e, -, rfl⟩ := step_next h
  · exact ⟨rfl, rfl, rfl⟩
  · exact s.start_program
  · obtain ⟨hcfg, hprog, hlen, -⟩ := accessSummaryOfEveryOpcode i s t hx
    exact ⟨hprog, hlen, hcfg⟩
  · exact ⟨rfl, rfl, rfl⟩

theorem run_program (k : Nat) {s t : State} (h : Host.Core.run core k s = .next t) :
    t.prog = s.prog ∧ t.progLen = s.progLen ∧ t.cfg = s.cfg := by
  induction k generalizing s with
  | zero => cases h; exact ⟨rfl, rfl, rfl⟩
  | succ k ih =>
    obtain ⟨u, hstep, hrun⟩ := run_succ_next h
    obtain ⟨hprog, hlen, hcfg⟩ := step_program hstep
    obtain ⟨hprog', hlen', hcfg'⟩ := ih hrun
    exact ⟨hprog'.trans hprog, hlen'.trans hlen, hcfg'.trans hcfg⟩

/-- Settles O42: a run keeps the program and the table, which with the cursor are all a fetch reads. -/
theorem everyFetchReadsTheBytesGivenAtStart : Obligations.EveryFetchReadsTheBytesGivenAtStart := by
  intro k s t h
  obtain ⟨hprog, hlen, hcfg⟩ := run_program k h
  refine ⟨hprog, hlen, hcfg, ?_⟩
  rw [State.fetch, State.programFrom, State.programFrom, hprog, hlen, hcfg]

/-! ### Buffer accesses in range -/

theorem State.withRoom_of_le {s : State} {m : Nat} (h : m ≤ s.cfg.bufCap) (act : StepOutcome) :
    s.withRoom m act = act := if_pos h

/-- A well-formed record answers a next state where the shift length fits a buffer: every operand it loads then does (R54, R208). -/
theorem exec_answers {i : Instr} {s : State} (hw : i.WellFormed s.shiftLength = true)
    (hL : s.shiftLength.toNat ≤ s.capacityBits) : ∃ t, exec i s = .next t := by
  have hroom : ceil8 s.shiftLength.toNat ≤ s.cfg.bufCap := ceil8_le_iff.2 hL
  cases i with
  | complete => exact ⟨_, rfl⟩
  | declareTdoMask v =>
    have hv : v.length = ceil8 s.shiftLength.toNat := by simpa [Instr.WellFormed] using hw
    exact ⟨_, State.withRoom_of_le (hv ▸ hroom) _⟩
  | declareRunTest c => exact ⟨_, rfl⟩
  | declareShiftSize c =>
    simp only [exec, execDeclareShiftSize]
    split <;> exact ⟨_, rfl⟩
  | shiftInstruction n v =>
    have hv : v.length = ceil8 n.toNat := by simpa [Instr.WellFormed] using hw
    simp only [exec, execShiftInstruction]
    split
    · exact ⟨_, rfl⟩
    · next hcap =>
      have hn : ceil8 n.toNat ≤ s.cfg.bufCap := ceil8_le_iff.2 (Nat.not_lt.1 (mt State.exceedsCapacity_iff.2 hcap))
      split
      · exact ⟨_, rfl⟩
      · exact ⟨_, State.withRoom_of_le (hv ▸ hn) _⟩
  | shiftData v =>
    have hv : v.length = ceil8 s.shiftLength.toNat := by simpa [Instr.WellFormed] using hw
    simp only [exec, execShiftData]
    split
    · exact ⟨_, rfl⟩
    · exact ⟨_, State.withRoom_of_le (hv ▸ hroom) _⟩
  | shiftDataCompare ps =>
    have hv : ps.length = ceil8 s.shiftLength.toNat := by simpa [Instr.WellFormed] using hw
    simp only [exec, execShiftDataCompare]
    split
    · exact ⟨_, rfl⟩
    · exact ⟨_, State.withRoom_of_le (hv ▸ hroom) _⟩

/-- What a running playback does next answers a next state, whatever stands at the cursor. -/
theorem State.Inv.act_answers {s : State} (h : s.Inv) : ∃ t, s.act = .next t := by
  unfold State.act
  split
  · split
    · next i rest hf => exact exec_answers (State.fetch_record hf).1 h.shiftLength_le
    · exact ⟨_, rfl⟩
  · exact ⟨_, rfl⟩

/-- Waiting for the pins answers the state waited for, or the block is stuck in the one operation that never returns (R235). -/
theorem awaitPins_cases (s t : State) :
    awaitPins s (.next t) = .next t ∨
      ∃ n, s.hangsAt = some n ∧ awaitPins s (.next t) = .fault (.pinNeverReturns (t.trace.take n)) := by
  cases hh : s.hungIn t with
  | none => exact .inl (by simp [awaitPins, hh])
  | some es =>
    obtain ⟨n, hn, hle, hlt, -⟩ := hungIn_eq_some.1 hh
    exact .inr ⟨n, hn, awaitPins_hung hn hle hlt⟩

/-- What a step can answer under the invariant: a next state, a block stuck in a pin operation, or that the playback was refused. -/
theorem State.Inv.step_cases {s : State} (h : s.Inv) :
    (∃ t, step s = .next t) ∨
    (∃ n es, s.hangsAt = some n ∧ step s = .fault (.pinNeverReturns es)) ∨
    (∃ why, s.status = .refused why ∧ step s = .refused (.playbackRefused why)) := by
  cases hst : s.status with
  | done r => exact .inl ⟨s, by rw [step, hst]⟩
  | refused why => exact .inr (.inr ⟨why, rfl, by rw [step, hst]⟩)
  | running =>
    obtain ⟨t, hact⟩ := h.act_answers
    have hstep : step s = awaitPins s (.next t) := by rw [step, hst, ← hact]
    obtain hnext | ⟨n, hn, hfault⟩ := awaitPins_cases s t
    · exact .inl ⟨t, hstep.trans hnext⟩
    · exact .inr (.inl ⟨n, _, hn, hstep.trans hfault⟩)

/-- Settles O36: of the three things a step can answer under the invariant, only the stuck block is a fault. -/
theorem noStepFaultsUnderTheInvariant : Obligations.NoStepFaultsUnderTheInvariant := by
  intro s hinv
  obtain ⟨t, hs⟩ | ⟨n, es, hn, hs⟩ | ⟨why, hwhy, hs⟩ := hinv.step_cases <;> rw [hs]
  · exact ⟨nofun, fun _ => nofun, nofun⟩
  · refine ⟨fun f hf => ?_, fun hnone => ?_, nofun⟩
    · cases hf; exact ⟨n, es, hn, rfl⟩
    · rw [hn] at hnone; cases hnone
  · refine ⟨nofun, fun _ => nofun, fun r hr => ?_⟩
    cases hr; exact ⟨why, hwhy, rfl⟩

/-! ### The TDI bits of events -/

/-- The levels written to TDI by these events, in order. -/
def tdiBits (es : List PinEvent) : List Bool := es.filterMap PinEvent.tdiBit?

@[simp] theorem tdiBits_nil : tdiBits [] = [] := rfl

@[simp] theorem tdiBits_pulseEvents : tdiBits pulseEvents = [] := rfl

@[simp] theorem tdiBits_append (es fs : List PinEvent) : tdiBits (es ++ fs) = tdiBits es ++ tdiBits fs :=
  List.filterMap_append

theorem tdiBits_flatMap {ι : Type} (f : ι → List PinEvent) (is : List ι) :
    tdiBits (is.flatMap f) = is.flatMap fun i => tdiBits (f i) := by
  induction is with
  | nil => rfl
  | cons i is ih => rw [List.flatMap_cons, tdiBits_append, ih, List.flatMap_cons]

@[simp] theorem tdiBits_transitionEvents (q : Transition) : tdiBits (transitionEvents q) = [] := by
  rw [transitionEvents, fsmEvents, tdiBits_flatMap]
  exact List.flatMap_eq_nil_iff.2 fun _ _ => rfl

@[simp] theorem tdiBits_idleEvents (n : Nat) : tdiBits (idleEvents n) = [] := by
  rw [idleEvents, tdiBits_flatMap]
  exact List.flatMap_eq_nil_iff.2 fun _ _ => rfl

@[simp] theorem tdiBits_scanEvents (enter exit : Transition) (shift : List PinEvent) (idle : U32) :
    tdiBits (scanEvents enter exit shift idle) = tdiBits shift := by
  simp [scanEvents]

@[simp] theorem tdiBits_finalTms (n k : Nat) : tdiBits (finalTms n k) = [] := by
  unfold finalTms
  split <;> rfl

@[simp] theorem tdiBits_samples (as : List Bool) : tdiBits (as.map .tdo) = [] := by
  induction as with
  | nil => rfl
  | cons a as ih => exact ih

theorem tdiBits_bitEvents (n : Nat) (bit : Nat → Bool) (samples : Nat → List Bool) (k : Nat) :
    tdiBits (bitEvents n bit samples k) = [bit k] := by
  have hrest : tdiBits ((samples k).map .tdo ++ (finalTms n k ++ pulseEvents)) = [] := by simp
  exact congrArg (bit k :: ·) hrest

/-- A shift, sampling or not, drives its bits in order (R103, R105). -/
theorem tdiBits_shift (n : Nat) (bit : Nat → Bool) (samples : Nat → List Bool) :
    tdiBits ((List.range n).flatMap (bitEvents n bit samples)) = (List.range n).map bit := by
  simp only [tdiBits_flatMap, tdiBits_bitEvents, List.map_eq_flatMap]

@[simp] theorem tdiBits_shiftEvents (n : Nat) (bit : Nat → Bool) : tdiBits (shiftEvents n bit) = (List.range n).map bit := by
  rw [shiftEvents_eq, tdiBits_shift]

@[simp] theorem tdiBits_sampleEvents (n : Nat) (bit answer : Nat → Bool) :
    tdiBits (sampleEvents n bit answer) = (List.range n).map bit := by
  rw [sampleEvents_eq, tdiBits_shift]

/-! ### Shift data, least significant bit first -/

theorem operandBits_eq (m : Memory) {v : List Byte} {bits : Nat} (hv : v.length = ceil8 bits) :
    (List.range bits).map (m.writeBytes 0 v).bit = (List.range bits).map (bitAt v) :=
  List.map_congr_left fun _ hk => Memory.bit_writeBytes m hv (List.mem_range.1 hk)

/-- A scan of a loaded operand drives the operand's bits (R57). -/
theorem tdiBits_operandScan (enter exit : Transition) (idle : U32) (m : Memory) {v : List Byte} {n : Nat}
    (hv : v.length = ceil8 n) :
    tdiBits (scanEvents enter exit (shiftEvents n (m.writeBytes 0 v).bit) idle) = (List.range n).map (bitAt v) := by
  rw [tdiBits_scanEvents, tdiBits_shiftEvents, operandBits_eq m hv]

/-- Sample `k` of a sampling shift is bit `k` of the sample buffer (R105). -/
theorem bit_sampledOut {n k : Nat} (answer : Nat → Bool) (m : Memory) (hk : k < n) :
    (sampledOut n answer m).bit k = answer k := by
  have hb : k / 8 < ceil8 n := by unfold ceil8; omega
  have hk8 : 8 * (k / 8) + k % 8 = k := by omega
  rw [Memory.bit, read_sampledOut, if_pos hb, getLsbD_sampledByte _ _ _ _ (Nat.mod_lt k (by omega)), hk8, decide_eq_true hk,
    Bool.true_and]

/-- Settles O21: each record's events are its scans' events, and of those only the shift's drive TDI. -/
theorem shiftBitsGoLeastSignificantFirst : Obligations.ShiftBitsGoLeastSignificantFirst := by
  refine ⟨fun s t data hw hL h => ?_, fun s t n data hw hn hcap h => ?_, fun s t ps hw hL h => ?_, fun n buf s => ?_⟩
  · have hv : data.length = ceil8 s.shiftLength.toNat := by simpa [Instr.WellFormed] using hw
    obtain ⟨hz, -⟩ | ⟨-, -, rfl⟩ := execShiftData_next h
    · exact absurd hz (BitVec.toNat_ne.1 hL)
    · exact ⟨_, rfl, tdiBits_operandScan _ _ _ _ hv⟩
  · have hv : data.length = ceil8 n.toNat := by simpa [Instr.WellFormed] using hw
    obtain ⟨hbig, -⟩ | ⟨hz, -⟩ | ⟨-, -, -, rfl⟩ := execShiftInstruction_next h
    · exact absurd hcap (Nat.not_le.2 hbig)
    · exact absurd hz (BitVec.toNat_ne.1 hn)
    · exact ⟨_, rfl, tdiBits_operandScan _ _ _ _ hv⟩
  · have hv : (ps.map Prod.fst).length = ceil8 s.shiftLength.toNat := by simpa [Instr.WellFormed] using hw
    obtain ⟨hz, -⟩ | ⟨n, out, st, hn1, hn32, -, rfl, -⟩ := execShiftDataCompare_compared h
    · exact absurd hz (BitVec.toNat_ne.1 hL)
    · refine ⟨_, n, rfl, hn1, hn32, rfl, (tdiBits_flatMap _ _).trans ?_⟩
      simp only [tdiBits_scanEvents, tdiBits_sampleEvents]
      exact congrArg (fun bs => (List.range n).flatMap fun _ => bs) (operandBits_eq s.inData hv)
  · rw [shiftInOut_eq]
    exact ⟨⟨_, rfl, tdiBits_sampleEvents n buf.bit s.draw⟩, fun k hk => bit_sampledOut s.draw s.outData hk⟩

end Sys2Proof.Machine

/-! PROOFS, family of 30_encoding.md: the decoder reads back what the encoder writes, and only that. -/

namespace Sys2Proof.Machine

/-! ### The arm each opcode of a distinct table selects (R73) -/

theorem decode_declareTdoMask (opc : OpcTable) (L : U32) (bs : List Byte) :
    decode opc L (opc.declareTdoMask :: bs) = decodeVec .declareTdoMask (ceil8 L.toNat) bs := by
  rw [decode, if_pos rfl]

theorem decode_shiftInstruction {opc : OpcTable} (h : opcDistinct opc = true) (L : U32) (bs : List Byte) :
    decode opc L (opc.shiftInstruction :: bs) = decodeSir bs := by
  obtain ⟨-, ⟨hmask, -⟩, ⟨-, hrun, hsize, -⟩, -⟩ := opcDistinct_ne h
  rw [decode, if_neg hmask.symm, if_neg hrun, if_neg hsize, if_pos rfl]

theorem decode_shiftData {opc : OpcTable} (h : opcDistinct opc = true) (L : U32) (bs : List Byte) :
    decode opc L (opc.shiftData :: bs) = decodeVec .shiftData (ceil8 L.toNat) bs := by
  obtain ⟨-, ⟨-, hmask, -⟩, ⟨hsir, -⟩, ⟨hrun, hsize, -⟩, -⟩ := opcDistinct_ne h
  rw [decode, if_neg hmask.symm, if_neg hrun, if_neg hsize, if_neg hsir.symm, if_pos rfl]

theorem decode_shiftDataCompare {opc : OpcTable} (h : opcDistinct opc = true) (L : U32) (bs : List Byte) :
    decode opc L (opc.shiftDataCompare :: bs) = decodeCmp (ceil8 L.toNat) bs := by
  obtain ⟨-, ⟨-, -, -, -, hmask⟩, ⟨-, -, -, hsir⟩, ⟨-, -, hdata⟩, ⟨-, hrun⟩, hsize⟩ := opcDistinct_ne h
  rw [decode, if_neg hmask.symm, if_neg hrun.symm, if_neg hsize.symm, if_neg hsir.symm, if_neg hdata.symm, if_pos rfl]

theorem decode_complete {opc : OpcTable} (h : opcDistinct opc = true) (L : U32) (bs : List Byte) :
    decode opc L (opc.complete :: bs) = .record .complete bs := by
  obtain ⟨⟨hmask, hsir, hdata, hrun, hsize, hcmp⟩, -⟩ := opcDistinct_ne h
  rw [decode, if_neg hmask, if_neg hrun, if_neg hsize, if_neg hsir, if_neg hdata, if_neg hcmp, if_pos rfl]

/-! ### Each format reads the operand bytes it is given (R72) -/

theorem decodeVec_append (mk : List Byte → Instr) {m : Nat} {v : List Byte} (hv : v.length = m) (rest : List Byte) :
    decodeVec mk m (v ++ rest) = .record (mk v) rest := by
  rw [decodeVec, takeBytes_append_of_length hv]

theorem decodeU32_be32Bytes (mk : U32 → Instr) (c : U32) (rest : List Byte) :
    decodeU32 mk (be32Bytes c ++ rest) = .record (mk c) rest :=
  congrArg (fun c => Decoded.record (mk c) rest) (be32_extract c)

theorem decodeSir_append {n : BitVec 8} {v : List Byte} (hv : v.length = ceil8 n.toNat) (rest : List Byte) :
    decodeSir (n :: (v ++ rest)) = .record (.shiftInstruction n v) rest := by
  simp only [decodeSir, takeBytes_append_of_length hv]

theorem decodeCmp_interleave {m : Nat} {ps : List (Byte × Byte)} (hps : ps.length = m) (rest : List Byte) :
    decodeCmp m (interleave ps ++ rest) = .record (.shiftDataCompare ps) rest := by
  have hlen : (interleave ps).length = 2 * m := by rw [length_interleave, hps]
  simp only [decodeCmp, takeBytes_append_of_length hlen, pairUp_interleave]

/-! ### Decoder and encoder -/

/-- Settles O2: the opcode byte selects the record's own arm, and its format reads back the operand bytes. -/
theorem encodedRecordDecodesToItself : Obligations.EncodedRecordDecodesToItself := by
  intro opc L i rest hd hw
  cases i with
  | complete => exact decode_complete hd L rest
  | declareTdoMask v =>
    have hv : v.length = ceil8 L.toNat := by simpa [Instr.WellFormed] using hw
    exact (decode_declareTdoMask opc L _).trans (decodeVec_append _ hv rest)
  | shiftInstruction n v =>
    have hv : v.length = ceil8 n.toNat := by simpa [Instr.WellFormed] using hw
    exact (decode_shiftInstruction hd L _).trans (decodeSir_append hv rest)
  | shiftData v =>
    have hv : v.length = ceil8 L.toNat := by simpa [Instr.WellFormed] using hw
    exact (decode_shiftData hd L _).trans (decodeVec_append _ hv rest)
  | declareRunTest c => exact (decode_declareRunTest hd L _).trans (decodeU32_be32Bytes _ c rest)
  | declareShiftSize c => exact (decode_declareShiftSize hd L _).trans (decodeU32_be32Bytes _ c rest)
  | shiftDataCompare ps =>
    have hps : ps.length = ceil8 L.toNat := by simpa [Instr.WellFormed] using hw
    exact (decode_shiftDataCompare hd L _).trans (decodeCmp_interleave hps rest)

/-- Settles O3: the bytes are the record's encoding and the rest, and that encoding has the length of R76. -/
theorem decodedBytesAreTheEncodedRecord : Obligations.DecodedBytesAreTheEncodedRecord := by
  intro opc L bs rest i h
  obtain ⟨hw, rfl⟩ := decode_record h
  exact ⟨hw, rfl, by rw [List.length_append, length_encode opc hw]⟩

end Sys2Proof.Machine

/-! PROOFS, family of 40_kernels.md: the events, lines and samples of each kernel, and how many events a scan adds. -/

namespace Sys2Proof.Machine

/-! ### Blocks of events, one per bit -/

section Blocks

variable {f : Nat → List PinEvent} {c k n : Nat}

theorem length_flatMap_range (hf : ∀ i < k, (f i).length = c) : ((List.range k).flatMap f).length = c * k := by
  rw [List.length_flatMap, List.sum_eq_card_nsmul _ c (by simpa using hf)]
  simp [Nat.mul_comm]

theorem count_flatMap_range {e : PinEvent} (hf : ∀ i < k, (f i).count e = 1) : ((List.range k).flatMap f).count e = k := by
  rw [List.count_flatMap, List.sum_eq_card_nsmul _ 1 (by simpa using hf)]
  simp

/-- Where the blocks before block `k` hold `c` events each, block `k` starts at position `c * k`. -/
theorem getElem?_flatMap_range (hf : ∀ i < k, (f i).length = c) (hk : k < n) {j : Nat} (hj : j < (f k).length) :
    ((List.range n).flatMap f)[c * k + j]? = (f k)[j]? := by
  obtain ⟨m, rfl⟩ := Nat.exists_eq_add_of_lt hk
  have hlen := length_flatMap_range hf
  rw [Nat.add_assoc, List.range_add, List.range_succ_eq_map, List.map_cons, List.flatMap_append, List.flatMap_cons,
    List.getElem?_append_right (by omega), hlen, Nat.add_sub_cancel_left, Nat.add_zero, List.getElem?_append_left hj]

end Blocks

/-! ### clock-FSM and idle-clocks -/

@[simp] theorem length_fsmEvents (p : U32) (n : Nat) : (fsmEvents p n).length = 3 * n := length_flatMap_range fun _ _ => rfl

@[simp] theorem length_idleEvents (n : Nat) : (idleEvents n).length = 2 * n := length_flatMap_range fun _ _ => rfl

@[simp] theorem count_tckTrue_fsmEvents (p : U32) (n : Nat) : (fsmEvents p n).count (.tck true) = n :=
  count_flatMap_range fun _ _ => rfl

@[simp] theorem count_tckTrue_idleEvents (n : Nat) : (idleEvents n).count (.tck true) = n := count_flatMap_range fun _ _ => rfl

/-- The three events of pattern bit `i` stand from position `3 * i` on (R100). -/
theorem getElem?_fsmEvents (p : U32) {n i j : Nat} (hi : i < n) (hj : j < 3) :
    (fsmEvents p n)[3 * i + j]? = [.tms (p.getLsbD i), .tck true, .tck false][j]? :=
  getElem?_flatMap_range (f := fun i => .tms (p.getLsbD i) :: pulseEvents) (fun _ _ => rfl) hi hj

theorem tdi_linesAfter_fsmEvents (l : Lines) (p : U32) (n : Nat) : (linesAfter l (fsmEvents p n)).tdi = l.tdi := by
  induction n generalizing l p with
  | zero => rfl
  | succ n ih => rw [fsmEvents_succ]; exact ih _ _

/-- clock-FSM of at least one bit leaves TMS at the last pattern bit and TCK low (R100). -/
theorem linesAfter_fsmEvents (l : Lines) (p : U32) {n : Nat} (hn : 0 < n) :
    linesAfter l (fsmEvents p n) = { tck := .driven false, tms := .driven (p.getLsbD (n - 1)), tdi := l.tdi } := by
  obtain ⟨m, rfl⟩ := Nat.exists_eq_succ_of_ne_zero hn.ne'
  have hlast : fsmEvents p (m + 1) = fsmEvents p m ++ [.tms (p.getLsbD m), .tck true, .tck false] := by
    simp [fsmEvents, List.range_succ, pulseEvents]
  rw [Nat.succ_eq_add_one, hlast, linesAfter_append, Nat.add_sub_cancel, ← tdi_linesAfter_fsmEvents l p m]
  rfl

theorem linesAfter_idleEvents (l : Lines) (n : Nat) :
    linesAfter l (idleEvents n) = { l with tck := if n = 0 then l.tck else .driven false } := by
  induction n generalizing l with
  | zero => rfl
  | succ n ih =>
    rw [idleEvents_succ, linesAfter_append, ih]
    simp [pulseEvents, linesAfter]

theorem idleEvents_eq_flatten (n : Nat) : idleEvents n = (List.replicate n [PinEvent.tck true, .tck false]).flatten := by
  rw [idleEvents, List.flatMap_def, List.map_const', List.length_range]
  rfl

/-- A `SEQ` count above 32 is the fault named, where the opcodes are distinct (60_exceptions.md R206; log 9). -/
theorem configFault_seqCount {c : Config} (hd : opcDistinct c.opc = true)
    (h : ∃ t ∈ [c.seq.resetIdle, c.seq.enterSir, c.seq.enterSdr, c.seq.exitIdle], 32 < t.count) :
    configFault c = some .seqCountAboveMax := by
  have hcount : seqCountsOk c.seq = false := by
    obtain ⟨t, ht, hlt⟩ := h
    exact List.all_eq_false.2 ⟨t, ht, by simpa using hlt⟩
  simp [configFault, hd, hcount]

/-- The first step of a playback with a bad configuration refuses it and does nothing else (R206). -/
theorem step_badConfig {s : State} {f : ConfigFault} (hr : s.status = .running) (hp : s.prologueDone = false)
    (h : configFault s.cfg = some f) : step s = .next (s.setStatus (.refused (.badConfig f))) := by
  have hact : s.act = .next (s.setStatus (.refused (.badConfig f))) := by
    simp [State.act, hp, State.start, h, State.refuse]
  rw [step, hr, hact]
  exact awaitPins_quiet rfl

/-- Settles O15: clock-FSM performs its three events a bit; a count above 32 is found before the prologue. -/
theorem clockFsmDrivesThePatternBits : Obligations.ClockFsmDrivesThePatternBits := by
  refine ⟨fun p n s => ?_, fun p s => rfl, fun s hr hp hd hcount => ?_, fun s => ?_⟩
  · rw [clockFsm_eq]
    refine ⟨rfl, tdi_linesAfter_fsmEvents s.lines p n, ⟨fsmEvents p n, rfl, length_fsmEvents p n, fun i hi => ?_⟩, fun hn => ?_⟩
    · exact ⟨getElem?_fsmEvents p hi (j := 0) (by decide), getElem?_fsmEvents p hi (j := 1) (by decide),
        getElem?_fsmEvents p hi (j := 2) (by decide)⟩
    · rw [State.perform_lines, linesAfter_fsmEvents s.lines p hn]
      exact ⟨rfl, rfl⟩
  · exact step_badConfig hr hp (configFault_seqCount hd hcount)
  · have hexample : fsmEvents 0x1F 6 =
        (List.replicate 5 [PinEvent.tms true, .tck true, .tck false]).flatten ++ [.tms false, .tck true, .tck false] := by
      decide
    rw [clockFsm_eq, State.perform_trace, hexample]

/-- Settles O16: idle-clocks performs its pulses, and no pulses where the count is 0. -/
theorem idleClocksPulseTckOnly : Obligations.IdleClocksPulseTckOnly := by
  refine ⟨fun n s => ?_, fun s => ?_⟩
  · rw [pulses_eq, State.perform, linesAfter_idleEvents, idleEvents_eq_flatten]
  · rw [State.idlePulses_eq, pulses_eq]

/-! ### Shifts, sampling or not -/

section Shift

variable (n : Nat) (bit : Nat → Bool) (samples : Nat → List Bool)

theorem bitEvents_of_last {k : Nat} (hk : k + 1 = n) :
    bitEvents n bit samples k = .tdi (bit k) :: ((samples k).map .tdo ++ [.tms true, .tck true, .tck false]) := by
  rw [bitEvents, finalTms, if_pos hk]
  rfl

theorem bitEvents_of_notLast {k : Nat} (hk : k + 1 ≠ n) :
    bitEvents n bit samples k = .tdi (bit k) :: ((samples k).map .tdo ++ [.tck true, .tck false]) := by
  rw [bitEvents, finalTms, if_neg hk]
  rfl

variable {n}

theorem length_bitEvents_of_notLast {c k : Nat} (hc : (samples k).length = c) (hk : k + 1 ≠ n) :
    (bitEvents n bit samples k).length = c + 3 := by
  rw [bitEvents_of_notLast n bit samples hk]
  simp [hc]

/-- Bit `k` of a shift with `c` samples a bit starts at position `(c + 3) * k` (R103, R105). -/
theorem getElem?_shift {c k j : Nat} (hc : ∀ i, (samples i).length = c) (hk : k < n)
    (hj : j < (bitEvents n bit samples k).length) :
    ((List.range n).flatMap (bitEvents n bit samples))[(c + 3) * k + j]? = (bitEvents n bit samples k)[j]? :=
  getElem?_flatMap_range (fun i hi => length_bitEvents_of_notLast bit samples (hc i) (by omega)) hk hj

/-- A shift of at least one bit, with `c` samples a bit, performs `c + 3` events a bit and one TMS write (R103, R105). -/
theorem length_shift {c : Nat} (hc : ∀ i, (samples i).length = c) (hn : 0 < n) :
    ((List.range n).flatMap (bitEvents n bit samples)).length = (c + 3) * n + 1 := by
  obtain ⟨m, rfl⟩ := Nat.exists_eq_succ_of_ne_zero hn.ne'
  have hbits : ((List.range m).flatMap (bitEvents (m + 1) bit samples)).length = (c + 3) * m :=
    length_flatMap_range fun i hi => length_bitEvents_of_notLast bit samples (hc i) (by omega)
  rw [Nat.succ_eq_add_one, List.range_succ, List.flatMap_append, List.length_append, hbits, List.flatMap_singleton,
    bitEvents_of_last _ _ _ rfl]
  simp only [List.length_cons, List.length_append, List.length_map, List.length_nil, hc]
  ring

variable (n)

/-- A shift pulses TCK once a bit (R103, R105). -/
theorem count_tckTrue_shift : ((List.range n).flatMap (bitEvents n bit samples)).count (.tck true) = n := by
  refine count_flatMap_range fun k _ => ?_
  have hsamples : ((samples k).map PinEvent.tdo).count (.tck true) = 0 := by simp [List.count_eq_zero]
  by_cases hk : k + 1 = n
  · rw [bitEvents_of_last _ _ _ hk]
    simp [hsamples]
  · rw [bitEvents_of_notLast _ _ _ hk]
    simp [hsamples]

@[simp] theorem count_tckTrue_shiftEvents : (shiftEvents n bit).count (.tck true) = n := by
  rw [shiftEvents_eq, count_tckTrue_shift]

@[simp] theorem count_tckTrue_sampleEvents (answer : Nat → Bool) : (sampleEvents n bit answer).count (.tck true) = n := by
  rw [sampleEvents_eq, count_tckTrue_shift]

variable {n}

theorem length_shiftEvents (hn : 0 < n) : (shiftEvents n bit).length = 3 * n + 1 :=
  length_shift bit (fun _ => []) (c := 0) (fun _ => rfl) hn

theorem length_sampleEvents (answer : Nat → Bool) (hn : 0 < n) : (sampleEvents n bit answer).length = 4 * n + 1 :=
  length_shift bit (fun k => [answer k]) (c := 1) (fun _ => rfl) hn

/-- The events of a bit before the last, by position: no TMS write (R103). -/
theorem getElem?_shiftEvents_of_notLast {k j : Nat} (hk : k + 1 < n) (hj : j < 3) :
    (shiftEvents n bit)[3 * k + j]? = [.tdi (bit k), .tck true, .tck false][j]? := by
  have hbit : bitEvents n bit (fun _ => []) k = _ := bitEvents_of_notLast n bit (fun _ => []) hk.ne
  have hat := getElem?_shift bit (fun _ => []) (c := 0) (j := j) (fun _ => rfl) (Nat.lt_of_succ_lt hk) (by rw [hbit]; exact hj)
  rw [hbit] at hat
  exact hat

/-- The events of the last bit, by position: TMS goes to 1 before the pulse (R103). -/
theorem getElem?_shiftEvents_of_last (m : Nat) {j : Nat} (hj : j < 4) :
    (shiftEvents (m + 1) bit)[3 * m + j]? = [.tdi (bit m), .tms true, .tck true, .tck false][j]? := by
  have hbit : bitEvents (m + 1) bit (fun _ => []) m = _ := bitEvents_of_last (m + 1) bit (fun _ => []) rfl
  have hat := getElem?_shift bit (fun _ => []) (c := 0) (j := j) (fun _ => rfl) (Nat.lt_succ_self m) (by rw [hbit]; exact hj)
  rw [hbit] at hat
  exact hat

end Shift

/-- shift-in-only of at least one bit leaves TCK low, TMS high and TDI at the last bit (R103). -/
theorem linesAfter_shiftEvents (l : Lines) (bit : Nat → Bool) {n : Nat} (hn : 0 < n) :
    linesAfter l (shiftEvents n bit) = { tck := .driven false, tms := .driven true, tdi := .driven (bit (n - 1)) } := by
  obtain ⟨m, rfl⟩ := Nat.exists_eq_succ_of_ne_zero hn.ne'
  rw [Nat.succ_eq_add_one, shiftEvents_eq, List.range_succ, List.flatMap_append, List.flatMap_singleton, linesAfter_append,
    bitEvents_of_last _ _ _ rfl, Nat.add_sub_cancel]
  rfl

theorem shiftEvents_congr {n : Nat} {bit bit' : Nat → Bool} (h : ∀ k, k < n → bit k = bit' k) :
    shiftEvents n bit = shiftEvents n bit' :=
  List.flatMap_congr fun k hk => by rw [h k (List.mem_range.1 hk)]

/-! ### Events without samples -/

/-- No event is a sample of TDO. -/
def Unsampled (es : List PinEvent) : Prop := ∀ e ∈ es, e.isSample = false

namespace Unsampled

theorem append {es fs : List PinEvent} (he : Unsampled es) (hf : Unsampled fs) : Unsampled (es ++ fs) :=
  List.forall_mem_append.2 ⟨he, hf⟩

theorem flatMap {f : Nat → List PinEvent} (hf : ∀ i, Unsampled (f i)) (is : List Nat) : Unsampled (is.flatMap f) := by
  intro e he
  obtain ⟨i, -, hi⟩ := List.mem_flatMap.1 he
  exact hf i e hi

theorem filter_isSample {es : List PinEvent} (h : Unsampled es) : es.filter PinEvent.isSample = [] :=
  List.filter_eq_nil_iff.2 fun e he => by simp [h e he]

theorem filter_not {es : List PinEvent} (h : Unsampled es) : es.filter (fun e => !e.isSample) = es :=
  List.filter_eq_self.2 fun e he => by simp [h e he]

end Unsampled

theorem unsampled_fsmEvents (p : U32) (n : Nat) : Unsampled (fsmEvents p n) :=
  .flatMap (fun i => by simp [Unsampled, pulseEvents, PinEvent.isSample]) _

theorem unsampled_idleEvents (n : Nat) : Unsampled (idleEvents n) :=
  .flatMap (fun _ => by simp [Unsampled, pulseEvents, PinEvent.isSample]) _

/-- The end of a shift bit: the TMS write of the last bit, and the pulse. -/
theorem unsampled_bitEnd (n k : Nat) : Unsampled (finalTms n k ++ pulseEvents) := by
  unfold finalTms
  split <;> simp [Unsampled, pulseEvents, PinEvent.isSample]

theorem unsampled_shiftEvents (n : Nat) (bit : Nat → Bool) : Unsampled (shiftEvents n bit) :=
  .flatMap (fun k => List.forall_mem_cons.2 ⟨rfl, unsampled_bitEnd n k⟩) _

theorem unsampled_scanEvents (enter exit : Transition) {shift : List PinEvent} (h : Unsampled shift) (idle : U32) :
    Unsampled (scanEvents enter exit shift idle) :=
  (((unsampled_fsmEvents _ _).append h).append (unsampled_fsmEvents _ _)).append (unsampled_idleEvents _)

/-- Without its samples, shift-in-out is shift-in-only (R105). -/
theorem filter_not_sampleEvents (n : Nat) (bit answer : Nat → Bool) :
    (sampleEvents n bit answer).filter (fun e => !e.isSample) = shiftEvents n bit := by
  rw [sampleEvents, List.filter_flatMap, shiftEvents]
  refine List.flatMap_congr fun k _ => ?_
  rw [List.filter_cons_of_pos rfl, List.filter_cons_of_neg (by simp [PinEvent.isSample]), (unsampled_bitEnd n k).filter_not]

/-- A sample of TDO leaves every line as it is (R31, R33). -/
theorem linesAfter_filter_not (l : Lines) (es : List PinEvent) :
    linesAfter l (es.filter fun e => !e.isSample) = linesAfter l es := by
  induction es generalizing l with
  | nil => rfl
  | cons e es ih =>
    cases e with
    | tck b => exact ih _
    | tms b => exact ih _
    | tdi b => exact ih _
    | tdo b => exact ih l

theorem linesAfter_sampleEvents (l : Lines) (n : Nat) (bit answer : Nat → Bool) :
    linesAfter l (sampleEvents n bit answer) = linesAfter l (shiftEvents n bit) := by
  rw [← linesAfter_filter_not, filter_not_sampleEvents]

/-! ### Records that shift without comparing -/

section Records

variable {s : State}

theorem exec_shiftInstruction_capacity {n : BitVec 8} (data : List Byte) (h : s.capacityBits < n.toNat) :
    exec (.shiftInstruction n data) s = .next (s.setStatus (.done (.capacity n.toNat))) := by
  simp [exec, execShiftInstruction, State.exceedsCapacity, h, State.raise]

/-- A shift-instruction of zero bits is refused under `Refuse` (41_opcodes.md R164). -/
theorem exec_shiftInstruction_refused {n : BitVec 8} (data : List Byte) (hn : n.toNat = 0) (hz : s.cfg.zeroShift = .refuse) :
    exec (.shiftInstruction n data) s = .next (s.setStatus (.refused (.zeroLengthShift s.cfg.opc.shiftInstruction s.pc))) := by
  simp [exec, execShiftInstruction, State.exceedsCapacity, State.refusesShift, hn, hz, State.refuse]

theorem exec_shiftInstruction_scans {n : BitVec 8} {data : List Byte} (hcap : n.toNat ≤ s.capacityBits)
    (hz : ¬ (n.toNat = 0 ∧ s.cfg.zeroShift = .refuse)) (hroom : data.length ≤ s.cfg.bufCap) :
    exec (.shiftInstruction n data) s = .next (((s.loadData data).advance (2 + data.length)).perform
      (scanEvents s.cfg.seq.enterSir s.cfg.seq.exitIdle (shiftEvents n.toNat (s.loadData data).inData.bit) s.idleClocks)) := by
  rw [exec, execShiftInstruction, if_neg (mt State.exceedsCapacity_iff.1 (Nat.not_lt.2 hcap)),
    if_neg (mt State.refusesShift_iff.1 hz), State.withRoom_of_le hroom, scanIr_eq]
  rfl

/-- A data shift of zero bits is refused under `Refuse` (R164). -/
theorem exec_shiftData_refused (data : List Byte) (hL : s.shiftLength.toNat = 0) (hz : s.cfg.zeroShift = .refuse) :
    exec (.shiftData data) s = .next (s.setStatus (.refused (.zeroLengthShift s.cfg.opc.shiftData s.pc))) := by
  rw [exec, execShiftData, if_pos (State.refusesShift_iff.2 ⟨hL, hz⟩), State.refuse]

theorem exec_shiftData_scans {data : List Byte} (hz : ¬ (s.shiftLength.toNat = 0 ∧ s.cfg.zeroShift = .refuse))
    (hroom : data.length ≤ s.cfg.bufCap) :
    exec (.shiftData data) s = .next (((s.loadData data).advance (1 + data.length)).perform
      (scanEvents s.cfg.seq.enterSdr s.cfg.seq.exitIdle (shiftEvents s.shiftLength.toNat (s.loadData data).inData.bit)
        s.idleClocks)) := by
  rw [exec, execShiftData, if_neg (mt State.refusesShift_iff.1 hz), State.withRoom_of_le hroom, scanDrOnly_eq]
  rfl

end Records

/-- Settles O17: shift-in-only performs its events, whose places follow from three a bit and the last bit's TMS write. -/
theorem shiftInOnlyDrivesTheDataBits : Obligations.ShiftInOnlyDrivesTheDataBits := by
  refine ⟨fun n buf s => ?_, fun n buf buf' s h => ?_, fun s data hz => ?_, fun s data hz hL => ?_, fun s => ?_⟩
  · rw [shiftInOnly_eq]
    refine ⟨rfl, fun hn => by subst hn; exact State.perform_nil s, fun hn => ⟨linesAfter_shiftEvents s.lines buf.bit hn,
      shiftEvents n buf.bit, rfl, length_shiftEvents buf.bit hn, fun k hk => ?_, fun k hk => ?_, ?_⟩⟩
    · exact getElem?_shift buf.bit (fun _ => []) (c := 0) (j := 0) (fun _ => rfl) hk (Nat.zero_lt_succ _)
    · exact ⟨getElem?_shiftEvents_of_notLast buf.bit hk (j := 1) (by decide),
        getElem?_shiftEvents_of_notLast buf.bit hk (j := 2) (by decide)⟩
    · obtain ⟨m, rfl⟩ := Nat.exists_eq_succ_of_ne_zero hn.ne'
      exact ⟨getElem?_shiftEvents_of_last buf.bit m (j := 1) (by decide),
        getElem?_shiftEvents_of_last buf.bit m (j := 2) (by decide),
        getElem?_shiftEvents_of_last buf.bit m (j := 3) (by decide)⟩
  · rw [shiftInOnly_eq, shiftInOnly_eq, shiftEvents_congr h]
  · exact exec_shiftInstruction_refused data rfl hz
  · exact exec_shiftData_refused data (by rw [hL]; rfl) hz
  · rw [shiftInOnly_eq, State.perform_trace]
    exact congrArg (s.trace ++ ·) (by decide)

/-- Settles O18: shift-in-out performs its events, which without the samples are those of shift-in-only, and fills the buffer bit by
bit. -/
theorem shiftInOutSamplesEachBit : Obligations.ShiftInOutSamplesEachBit := by
  intro n buf s
  rw [shiftInOut_eq, shiftInOnly_eq]
  refine ⟨rfl, fun a ha => ?_, fun a j ha hj => ?_, linesAfter_sampleEvents s.lines n buf.bit s.draw,
    sampleEvents n buf.bit s.draw, rfl, ?_, fun k hk => ?_, ?_⟩
  · exact (read_sampledOut n s.draw s.outData a).trans (if_neg (Nat.not_lt.2 ha))
  · have hread : (sampledOut n s.draw s.outData).read a = sampledByte n s.draw a :=
      (read_sampledOut n s.draw s.outData a).trans (if_pos ha)
    exact (congrArg (BitVec.getLsbD · j) hread).trans ((getLsbD_sampledByte n s.draw a j hj).trans (by split <;> simp [*]))
  · rw [filter_not_sampleEvents, State.perform_trace]
  · have hat {j : Nat} := getElem?_shift buf.bit (fun k => [s.draw k]) (c := 1) (j := j) (fun _ => rfl) hk
    exact ⟨hat (j := 0) (Nat.zero_lt_succ _), hat (j := 1) (Nat.succ_lt_succ (Nat.zero_lt_succ _))⟩
  · split
    · next hn => subst hn; rfl
    · next hn => exact length_sampleEvents buf.bit s.draw (Nat.pos_of_ne_zero hn)

/-! ### How many events a scan adds -/

theorem length_scanEvents (enter exit : Transition) (shift : List PinEvent) (idle : U32) :
    (scanEvents enter exit shift idle).length = 3 * enter.count + shift.length + 3 * exit.count + 2 * idle.toNat := by
  simp [scanEvents, transitionEvents, Nat.add_assoc]

theorem count_tckTrue_scanEvents (enter exit : Transition) (shift : List PinEvent) (idle : U32) :
    (scanEvents enter exit shift idle).count (.tck true) =
      enter.count + shift.count (.tck true) + exit.count + idle.toNat := by
  simp [scanEvents, transitionEvents, Nat.add_assoc]

/-- Settles O22: a scan adds its two transitions, its shift and its idle pulses, with the default counts 4, 3 and 2. -/
theorem scanEventCounts : Obligations.ScanEventCounts := by
  intro n s hseq hn
  simp only [scanIr_eq, scanDrOnly_eq, scanDrSample_eq, State.perform_trace, State.setOutData_trace, State.skipAnswers_trace,
    List.length_append, List.count_append, length_scanEvents, count_tckTrue_scanEvents, length_shiftEvents _ hn,
    length_sampleEvents _ _ hn, count_tckTrue_shiftEvents, count_tckTrue_sampleEvents, hseq, defaultSeq, and_true]
  omega

/-! ### The target's answers -/

/-- The state with other answers to come. -/
def State.setAnswers (answers : List Bool) (draws : Nat) (s : State) : State :=
  { s with tdoNext := answers, tdoDraws := draws }

/-- A record that does not compare adds no sample of TDO (R107). -/
theorem exec_unsampled {i : Instr} {s t : State} (hi : ∀ ps, i ≠ .shiftDataCompare ps) (h : exec i s = .next t) :
    ∃ es, Unsampled es ∧ t.trace = s.trace ++ es := by
  have quiet (ht : t.trace = s.trace) : ∃ es, Unsampled es ∧ t.trace = s.trace ++ es := ⟨[], nofun, by simpa using ht⟩
  cases i with
  | complete => obtain rfl := execComplete_next h; exact quiet rfl
  | declareTdoMask v => obtain ⟨-, rfl⟩ := execDeclareTdoMask_next h; exact quiet rfl
  | declareRunTest c => obtain rfl := execDeclareRunTest_next h; exact quiet rfl
  | declareShiftSize c => obtain ⟨-, rfl⟩ | ⟨-, rfl⟩ := execDeclareShiftSize_next h <;> exact quiet rfl
  | shiftInstruction n v =>
    obtain ⟨-, rfl⟩ | ⟨-, -, rfl⟩ | ⟨-, -, -, rfl⟩ := execShiftInstruction_next h
    · exact quiet rfl
    · exact quiet rfl
    · exact ⟨_, unsampled_scanEvents _ _ (unsampled_shiftEvents _ _) _, rfl⟩
  | shiftData v =>
    obtain ⟨-, -, rfl⟩ | ⟨-, -, rfl⟩ := execShiftData_next h
    · exact quiet rfl
    · exact ⟨_, unsampled_scanEvents _ _ (unsampled_shiftEvents _ _) _, rfl⟩
  | shiftDataCompare ps => exact absurd rfl (hi ps)

/-- A record that does not compare does the same whatever the target will answer (R107). -/
theorem exec_setAnswers {i : Instr} {s t : State} (hi : ∀ ps, i ≠ .shiftDataCompare ps) (h : exec i s = .next t)
    (answers : List Bool) (draws : Nat) : exec i (s.setAnswers answers draws) = .next (t.setAnswers answers draws) := by
  cases i with
  | complete => obtain rfl := execComplete_next h; rfl
  | declareTdoMask v => obtain ⟨hroom, rfl⟩ := execDeclareTdoMask_next h; exact State.withRoom_of_le hroom _
  | declareRunTest c => obtain rfl := execDeclareRunTest_next h; rfl
  | declareShiftSize c =>
    obtain ⟨hcap, rfl⟩ | ⟨hcap, rfl⟩ := execDeclareShiftSize_next h
    · exact if_pos (State.exceedsCapacity_iff.2 hcap)
    · exact if_neg (mt State.exceedsCapacity_iff.1 (Nat.not_lt.2 hcap))
  | shiftInstruction n v =>
    obtain ⟨hcap, rfl⟩ | ⟨hn, hz, rfl⟩ | ⟨hcap, hz, hroom, rfl⟩ := execShiftInstruction_next h
    · exact exec_shiftInstruction_capacity (s := s.setAnswers answers draws) v hcap
    · exact exec_shiftInstruction_refused (s := s.setAnswers answers draws) v hn hz
    · exact exec_shiftInstruction_scans (s := s.setAnswers answers draws) hcap hz hroom
  | shiftData v =>
    obtain ⟨hL, hz, rfl⟩ | ⟨hz, hroom, rfl⟩ := execShiftData_next h
    · exact exec_shiftData_refused (s := s.setAnswers answers draws) v hL hz
    · exact exec_shiftData_scans (s := s.setAnswers answers draws) hz hroom
  | shiftDataCompare ps => exact absurd rfl (hi ps)

/-- Settles O41: the sampling kernel is the other one with samples, and a record that does not compare runs only the other one. -/
theorem shiftsThatDoNotCompareNeverSample : Obligations.ShiftsThatDoNotCompareNeverSample := by
  refine ⟨fun n buf s => ?_, fun i s t hi h => ⟨?_, exec_setAnswers hi h⟩⟩
  · rw [shiftInOut_eq, shiftInOnly_eq]
    refine ⟨linesAfter_sampleEvents s.lines n buf.bit s.draw, ?_⟩
    simp only [State.perform_trace, State.setOutData_trace, State.skipAnswers_trace, List.filter_append,
      filter_not_sampleEvents, (unsampled_shiftEvents n buf.bit).filter_not]
  · obtain ⟨es, hes, ht⟩ := exec_unsampled hi h
    rw [ht, List.filter_append, hes.filter_isSample, List.append_nil]

end Sys2Proof.Machine

/-! PROOFS, family of 41_opcodes.md: what a step reads at a record boundary, and what each record does when it is read. -/

namespace Sys2Proof.Machine

/-! ### One step, by what stands at the cursor (R130, R131) -/

section Step

variable {s t : State}

theorem step_done {r : Result} (h : s.status = .done r) : step s = .next s := by rw [step, h]

theorem step_refused {r : RefuseReason} (h : s.status = .refused r) : step s = .refused (.playbackRefused r) := by
  rw [step, h]

theorem step_start (hr : s.status = .running) (hp : s.prologueDone = false) : step s = awaitPins s (.next s.start) := by
  have hact : s.act = .next s.start := by simp [State.act, hp]
  rw [step, hr, ← hact]

theorem step_record {i : Instr} {rest : List Byte} (hs : s.Ready) (hf : s.fetch = .record i rest) :
    step s = awaitPins s (exec i s) := by
  obtain ⟨hr, hp⟩ := hs
  have hact : s.act = exec i s := by simp [State.act, hp, hf]
  rw [step, hr, ← hact]

/-- Bytes that are no record end the playback, with no pin operation to wait for (60_exceptions.md R208). -/
theorem step_failed {e : DecodeError} (hs : s.Ready) (hf : s.fetch = .failed e) :
    step s = .next (s.setStatus (.done (s.decodeOutcome e))) := by
  obtain ⟨hr, hp⟩ := hs
  have hact : s.act = .next (s.setStatus (.done (s.decodeOutcome e))) := by simp [State.act, hp, hf]
  rw [step, hr, hact]
  exact awaitPins_quiet rfl

/-- A record that performs no pin operation has nothing to wait for. -/
theorem step_quietRecord {i : Instr} {rest : List Byte} (hs : s.Ready) (hf : s.fetch = .record i rest)
    (hquiet : ∀ t, exec i s = .next t → t.trace = s.trace) : step s = exec i s := by
  rw [step_record hs hf]
  cases hx : exec i s with
  | next t => exact awaitPins_quiet (hquiet t hx)
  | fault f => rfl
  | refused r => rfl

end Step

/-- Settles O5: `step` by the status and the bytes at the cursor, and the wait by the operations there are to wait for. -/
theorem stepRunsTheDecodedRecord : Obligations.StepRunsTheDecodedRecord := by
  refine ⟨fun s i rest hs hf => step_record hs hf, fun s i rest hs hd hw hbytes => ?_, fun s hr hp => step_start hr hp,
    fun s o h => awaitPins_none h o, fun s t h => awaitPins_quiet h, fun s r h => step_done h, fun s r h => step_refused h⟩
  have hf : s.fetch = .record i rest := by
    rw [State.fetch, hbytes]
    exact encodedRecordDecodesToItself _ _ _ _ hd hw
  exact step_record hs hf

/-! ### The operand formats, read from the program (30_encoding.md R72) -/

section Operands

variable (s : State)

theorem State.fetch_opcode {op : Byte} (hpc : s.pc < s.progLen) (hop : s.prog.read s.pc = op) :
    s.fetch = decode s.cfg.opc s.shiftLength (op :: s.programFrom (s.pc + 1)) := by
  rw [State.fetch, State.programFrom_cons s hpc, hop]

theorem State.decodeU32_programFrom (mk : U32 → Instr) {a : Nat} (h : a + 4 ≤ s.progLen) :
    decodeU32 mk (s.programFrom a) =
      .record (mk (be32 (s.prog.read a) (s.prog.read (a + 1)) (s.prog.read (a + 2)) (s.prog.read (a + 3))))
        (s.programFrom (a + 4)) := by
  rw [State.programFrom_cons s (by omega), State.programFrom_cons s (by omega), State.programFrom_cons s (by omega),
    State.programFrom_cons s (by omega)]
  rfl

theorem decodeU32_short (mk : U32 → Instr) {bs : List Byte} (h : bs.length < 4) :
    decodeU32 mk bs = .failed .shortCount := by
  match bs, h with
  | [], _ => rfl
  | [_], _ => rfl
  | [_, _], _ => rfl
  | [_, _, _], _ => rfl

variable {s}

/-- A `VEC` record that stands at the cursor whole is fetched with the next `m` bytes. -/
theorem State.fetch_vec {op : Byte} {mk : List Byte → Instr} {m : Nat}
    (harm : ∀ bs, decode s.cfg.opc s.shiftLength (op :: bs) = decodeVec mk m bs) (hop : s.prog.read s.pc = op)
    (h : s.pc + 1 + m ≤ s.progLen) :
    s.fetch = .record (mk (s.prog.readBytes (s.pc + 1) m)) (s.programFrom (s.pc + 1 + m)) := by
  rw [State.fetch_opcode s (by omega) hop, harm, decodeVec, State.takeBytes_programFrom, if_pos (.inl h)]

/-- A shift-instruction that stands at the cursor whole is fetched with its count byte and the bytes the count gives it. -/
theorem State.fetch_shiftInstruction (hd : opcDistinct s.cfg.opc = true)
    (hop : s.prog.read s.pc = s.cfg.opc.shiftInstruction)
    (h : s.pc + 2 + ceil8 (s.prog.read (s.pc + 1)).toNat ≤ s.progLen) :
    s.fetch = .record (.shiftInstruction (s.prog.read (s.pc + 1))
        (s.prog.readBytes (s.pc + 2) (ceil8 (s.prog.read (s.pc + 1)).toNat)))
      (s.programFrom (s.pc + 2 + ceil8 (s.prog.read (s.pc + 1)).toNat)) := by
  rw [State.fetch_opcode s (by omega) hop, decode_shiftInstruction hd, State.programFrom_cons s (by omega)]
  simp only [decodeSir, State.takeBytes_programFrom, if_pos (Or.inl h)]

/-- Where a `U32` record stands at the cursor whole, it is fetched with its big-endian count (R56, R74). -/
theorem State.fetch_u32 {op : Byte} {mk : U32 → Instr}
    (harm : ∀ bs, decode s.cfg.opc s.shiftLength (op :: bs) = decodeU32 mk bs) (hop : s.prog.read s.pc = op)
    (h : s.pc + 5 ≤ s.progLen) :
    s.fetch = .record (mk (be32 (s.prog.read (s.pc + 1)) (s.prog.read (s.pc + 2)) (s.prog.read (s.pc + 3))
      (s.prog.read (s.pc + 4)))) (s.programFrom (s.pc + 5)) := by
  rw [State.fetch_opcode s (by omega) hop, harm, State.decodeU32_programFrom s mk (by omega)]

/-- Where fewer than four bytes follow the opcode of a `U32` record, the playback ends at the byte after it (R208). -/
theorem step_u32_short {op : Byte} {mk : U32 → Instr} (hs : s.Ready)
    (harm : ∀ bs, decode s.cfg.opc s.shiftLength (op :: bs) = decodeU32 mk bs) (hop : s.prog.read s.pc = op)
    (hpc : s.pc < s.progLen) (h : s.progLen < s.pc + 5) :
    step s = .next (s.setStatus (.done (.truncatedProgram (s.pc + 1)))) := by
  have hf : s.fetch = .failed .shortCount := by
    rw [State.fetch_opcode s hpc hop, harm]
    exact decodeU32_short mk (by rw [State.length_programFrom]; omega)
  exact step_failed hs hf

end Operands

/-! ### The declarations -/

/-- The end of a scan ends with as many idle pulses as `idleClocks` says (R115, R116). -/
theorem State.leaveShift_pulses (s : State) {c : U32} (h : s.idleClocks = c) : ∃ u, s.leaveShift = pulses c.toNat u := by
  refine ⟨s.transition s.cfg.seq.exitIdle, ?_⟩
  rw [State.leaveShift, State.idlePulses_eq, pulses_eq, State.transition_eq, ← h]
  rfl

/-- Settles O10: the record by its definition, its four bytes as a `U32` operand, and the pulses that end every scan. -/
theorem runTestDeclarationSetsIdleClocks : Obligations.RunTestDeclarationSetsIdleClocks := by
  refine ⟨fun s c => rfl, fun s hs hd hop => ?_, fun n s => ⟨?_, ?_, ?_⟩, fun s h => ?_, rfl⟩
  · have harm := decode_declareRunTest hd s.shiftLength
    refine ⟨fun h => ?_, fun hpc h => step_u32_short hs harm hop hpc h⟩
    exact step_quietRecord hs (State.fetch_u32 harm hop h) fun t ht => by rw [execDeclareRunTest_next ht]; rfl
  · rw [scanIr, shiftInOnly_eq, State.transition_eq]
    exact State.leaveShift_pulses _ (by simp)
  · rw [scanDrOnly, shiftInOnly_eq, State.transition_eq]
    exact State.leaveShift_pulses _ (by simp)
  · rw [scanDrSample, shiftInOut_eq, State.transition_eq]
    exact State.leaveShift_pulses _ (by simp)
  · rw [State.idlePulses_eq, h]
    exact State.perform_nil s

theorem exec_declareShiftSize_sets {s : State} {c : U32} (h : c.toNat ≤ s.capacityBits) :
    exec (.declareShiftSize c) s = .next ((s.setShiftLength c).advance 5) :=
  if_neg (mt State.exceedsCapacity_iff.1 (Nat.not_lt.2 h))

theorem exec_declareShiftSize_capacity {s : State} {c : U32} (h : s.capacityBits < c.toNat) :
    exec (.declareShiftSize c) s = .next (s.setStatus (.done (.capacity c.toNat))) :=
  if_pos (State.exceedsCapacity_iff.2 h)

/-- Settles O11: the record by its capacity check, its four bytes as a `U32` operand. -/
theorem shiftSizeDeclarationSetsShiftLengthOrRaisesCapacity :
    Obligations.ShiftSizeDeclarationSetsShiftLengthOrRaisesCapacity := by
  refine ⟨fun s c h => exec_declareShiftSize_sets h, fun s c h => exec_declareShiftSize_capacity h, fun s hs hd hop => ?_⟩
  have harm := decode_declareShiftSize hd s.shiftLength
  refine ⟨fun h => step_quietRecord hs (State.fetch_u32 harm hop h) fun t ht => ?_,
    fun hpc h => step_u32_short hs harm hop hpc h⟩
  obtain ⟨-, rfl⟩ | ⟨-, rfl⟩ := execDeclareShiftSize_next ht <;> rfl

/-- Byte by byte, a buffer loaded with `m` operand bytes: those bytes, and the bytes above as before (R169). -/
theorem Memory.read_load (buf : Memory) {v : List Byte} {m : Nat} (hv : v.length = m) (a : Nat) :
    (buf.writeBytes 0 v).read a = if a < m then v.getD a 0 else buf.read a := by
  simp [Memory.read_writeBytes, hv]

/-- Settles O12: the record loads its operand from index 0; read from the program, the operand is the next bytes. -/
theorem tdoMaskDeclarationWritesTheMaskBytes : Obligations.TdoMaskDeclarationWritesTheMaskBytes := by
  refine ⟨fun s v hw hL => ?_, fun s hs hd hop h => ?_⟩
  · have hv : v.length = ceil8 s.shiftLength.toNat := by simpa [Instr.WellFormed] using hw
    have hroom : v.length ≤ s.cfg.bufCap := hv ▸ ceil8_le_iff.2 hL
    refine ⟨(s.loadMask v).advance (1 + v.length), State.withRoom_of_le hroom _, ?_, Memory.read_load s.inMask hv⟩
    rw [hv, Nat.add_assoc]
    rfl
  · have hf := State.fetch_vec (decode_declareTdoMask s.cfg.opc s.shiftLength) hop h
    exact step_quietRecord hs hf fun t ht => by rw [(execDeclareTdoMask_next ht).2]; rfl

/-! ### The shifts that do not compare -/

/-- A shift is not refused where it has bits or zero bits are `Literal` (R164). -/
theorem not_refusesShift {w : Nat} {bits : BitVec w} {z : ZeroShift} (h : bits ≠ 0 ∨ z = .literal) :
    ¬ (bits.toNat = 0 ∧ z = .refuse) := by
  rintro ⟨hbits, rfl⟩
  obtain hne | hlit := h
  · exact hne (BitVec.eq_of_toNat_eq hbits)
  · cases hlit

/-- A scan of a loaded operand, as its effect on the fields: the operand's bits on the pins, its bytes in `inData`, the cursor past it
(R169, 20_memory.md R57). -/
theorem State.operandScan_eq (s : State) (enter exit : Transition) {v : List Byte} {bits : Nat} (hv : v.length = ceil8 bits)
    (c : Nat) :
    ((s.loadData v).advance (c + v.length)).perform
        (scanEvents enter exit (shiftEvents bits (s.loadData v).inData.bit) s.idleClocks) =
      { s.perform (scanEvents enter exit (shiftEvents bits (bitAt v)) s.idleClocks) with
        inData := s.inData.writeBytes 0 v, pc := s.pc + c + ceil8 bits } := by
  rw [State.loadData_inData, shiftEvents_congr fun k hk => Memory.bit_writeBytes s.inData hv hk, hv, Nat.add_assoc]
  rfl

/-- Settles O19: the scan of the loaded bytes drives the operand's bits; read from the program, the operand is the count byte and
the bytes the count gives it. -/
theorem shiftInstructionScansTheInstructionRegister : Obligations.ShiftInstructionScansTheInstructionRegister := by
  refine ⟨fun s n v hw hcap hz => ?_, fun s n v h => exec_shiftInstruction_capacity v h,
    fun s hs hd hop h => step_record hs (State.fetch_shiftInstruction hd hop h)⟩
  have hv : v.length = ceil8 n.toNat := by simpa [Instr.WellFormed] using hw
  have hroom : v.length ≤ s.cfg.bufCap := hv ▸ ceil8_le_iff.2 hcap
  exact ⟨_, exec_shiftInstruction_scans hcap (not_refusesShift hz) hroom, s.operandScan_eq _ _ hv 2,
    Memory.read_load s.inData hv⟩

/-- Settles O20: the scan of the loaded bytes drives the operand's bits; read from the program, the operand is the next bytes. -/
theorem shiftDataScansTheDataRegister : Obligations.ShiftDataScansTheDataRegister := by
  refine ⟨fun s v hw hcap hz => ?_,
    fun s hs hd hop h => step_record hs (State.fetch_vec (decode_shiftData hd s.shiftLength) hop h)⟩
  have hv : v.length = ceil8 s.shiftLength.toNat := by simpa [Instr.WellFormed] using hw
  have hroom : v.length ≤ s.cfg.bufCap := hv ▸ ceil8_le_iff.2 hcap
  exact ⟨_, exec_shiftData_scans (not_refusesShift hz) hroom, s.operandScan_eq _ _ hv 1, Memory.read_load s.inData hv⟩

end Sys2Proof.Machine

/-! PROOFS, family of 41_opcodes.md: the prologue and the first record of a playback, the two ways a first byte can end it, and the
Pause states a zero-length shift leaves the target in. -/

namespace Sys2Proof.Machine

/-! ### Where transitions and idle pulses leave a known TAP -/

/-- A transition with TCK low moves every possible TAP state along its levels (40_kernels.md R100, R110). -/
theorem Observer.taps_transition {o : Observer} (hlow : o.lines.tck = .driven false) (q : Transition) :
    (o.seeAll (transitionEvents q)).taps = o.taps.map (fun t => t.after (transitionLevels q)) :=
  (Observer.taps_fsm o q.pattern q.count hlow).1

theorem Observer.knownTap_transition {o : Observer} {t : TapState} (hlow : o.lines.tck = .driven false)
    (h : knownTap o.taps = some t) (q : Transition) :
    knownTap (o.seeAll (transitionEvents q)).taps = some (t.after (transitionLevels q)) := by
  obtain ⟨hne, hall⟩ := knownTap_eq_some.1 h
  rw [Observer.taps_transition hlow]
  refine knownTap_eq_some.2 ⟨by simpa using hne, fun u hu => ?_⟩
  obtain ⟨v, hv, rfl⟩ := List.mem_map.1 hu
  rw [hall v hv]

/-- Idle pulses with TMS low leave the TAP in a state that TMS low keeps (R102). -/
theorem Observer.knownTap_idle {o : Observer} {t : TapState} (hlow : o.lines.tck = .driven false)
    (hms : o.lines.tms = .driven false) (h : knownTap o.taps = some t) (hstay : t.next false = t) (n : Nat) :
    knownTap (o.seeAll (idleEvents n)).taps = some t := by
  induction n generalizing o with
  | zero => exact h
  | succ n ih =>
    obtain ⟨htaps, hlines⟩ := Observer.taps_pulse o false hlow hms
    have hknown := knownTap_tapsAfterEdge h false
    rw [hstay] at hknown
    rw [idleEvents_succ, Observer.seeAll_append]
    exact ih (by rw [hlines, hlow]) (by rw [hlines, hms]) (by rw [htaps]; exact hknown)

/-- A transition that takes every TAP state to the same one makes the TAP known (40_kernels.md R112). -/
theorem State.tap_reset {s : State} {t : TapState} {q : Transition} (hshown : s.LinesShown) (hlow : s.lines.tck = .driven false)
    (hq : ∀ u : TapState, u.after (transitionLevels q) = t) : (s.perform (transitionEvents q)).tap = some t := by
  have hlow' : (observe s.trace).lines.tck = .driven false := by rw [hshown]; exact hlow
  rw [State.tap, State.perform_trace, observe_append, Observer.taps_transition hlow']
  refine knownTap_eq_some.2 ⟨fun hnil => ?_, fun u hu => ?_⟩
  · have hlen := taps_length_observe s.trace
    rw [List.map_eq_nil_iff.1 hnil] at hlen
    cases hlen
  · obtain ⟨v, -, rfl⟩ := List.mem_map.1 hu
    exact hq v

/-! ### The prologue (R130) -/

section Prologue

variable {s t : State}

theorem step_prologue (hr : s.status = .running) (hp : s.prologueDone = false) (hc : configFault s.cfg = none) :
    step s = awaitPins s (.next (s.perform (transitionEvents s.cfg.seq.resetIdle)).markPrologue) := by
  obtain ⟨f, hf, -⟩ | ⟨-, hs⟩ := State.start_cases s
  · rw [hc] at hf; cases hf
  · rw [step_start hr hp, hs]

/-- No step clears the mark that the prologue is done. -/
theorem step_keeps_prologueDone (hp : s.prologueDone = true) (h : step s = .next t) : t.prologueDone = true := by
  obtain ⟨-, rfl⟩ | ⟨-, hf, -⟩ | ⟨-, i, rest, -, hx⟩ | ⟨-, e, -, rfl⟩ := step_next h
  · exact hp
  · rw [hp] at hf; cases hf
  · obtain ⟨-, -, -, hdone, -⟩ := accessSummaryOfEveryOpcode i s t hx
    exact hdone.trans hp
  · exact hp

end Prologue

theorem after_defaultResetIdle (u : TapState) : u.after (transitionLevels defaultSeq.resetIdle) = .runTestIdle := by
  cases u <;> rfl

/-- Settles O7: the first step performs the prologue's events and sets the mark; with the default `SEQ` these are three events for each
of six pulses, and five of them with TMS high reach Test-Logic-Reset from anywhere. -/
theorem prologueRunsOnceBeforeTheFirstRecord : Obligations.PrologueRunsOnceBeforeTheFirstRecord := by
  refine ⟨fun s hr hp hc => step_prologue hr hp hc, fun s t hp h => step_keeps_prologueDone hp h,
    fun s t hr hp hc hseq hshown hlow h => ?_⟩
  rw [step_prologue hr hp hc, hseq] at h
  cases awaitPins_next h
  refine ⟨⟨transitionEvents defaultSeq.resetIdle, rfl, length_fsmEvents _ _, count_tckTrue_fsmEvents _ _⟩,
    State.tap_reset hshown hlow after_defaultResetIdle, ?_⟩
  exact congrArg Lines.tms (linesAfter_fsmEvents s.lines defaultSeq.resetIdle.pattern (n := 6) (by decide))

/-! ### The first record of a playback -/

/-- A playback after its prologue, at its first record. -/
def State.begun (cfg : Config) (program : List Byte) (answers : List Bool) : State :=
  ((State.playback cfg program answers).perform (transitionEvents cfg.seq.resetIdle)).markPrologue

section Begun

variable {cfg : Config} (program : List Byte) (answers : List Bool)

theorem step_playback (hc : configFault cfg = none) :
    step (State.playback cfg program answers) = .next (State.begun cfg program answers) :=
  (step_prologue rfl rfl hc).trans (awaitPins_none rfl _)

theorem State.begun_ready : (State.begun cfg program answers).Ready := ⟨rfl, rfl⟩

/-- The first record is read from the first byte of the program. -/
theorem State.begun_fetch : (State.begun cfg program answers).fetch = decode cfg.opc 0 program :=
  congrArg (decode cfg.opc 0) (State.programFrom_playback cfg program answers)

/-- Two steps of a playback are the prologue and the step at the first record. -/
theorem run_playback_two (hc : configFault cfg = none) {t : State} (h : step (State.begun cfg program answers) = .next t) :
    Host.Core.run core 2 (State.playback cfg program answers) = .next t :=
  (run_of_step_next (step_playback program answers hc)).trans (run_of_step_next h)

end Begun

theorem opcDistinct_of_configFault {c : Config} (h : configFault c = none) : opcDistinct c.opc = true := by
  by_contra hd
  have hd' : opcDistinct c.opc = false := by simpa using hd
  simp [configFault, hd'] at h

/-! ### The sentinel and the unsupported bytes -/

/-- The sentinel ends the playback in one step and performs nothing (R158). -/
theorem step_complete {s : State} {rest : List Byte} (hs : s.Ready) (hf : s.fetch = .record .complete rest) :
    step s = .next ((s.advance 1).setStatus (.done .success)) :=
  step_quietRecord hs hf fun t ht => by rw [execComplete_next ht]; rfl

/-- Settles O13: the opcode byte alone is the record, wherever it stands. -/
theorem sentinelEndsThePlaybackWithSuccess : Obligations.SentinelEndsThePlaybackWithSuccess := by
  refine ⟨fun s => rfl, fun s hs hd hpc hop => ?_, fun cfg rest answers hc => ?_, rfl⟩
  · exact step_complete hs ((State.fetch_opcode s hpc hop).trans (decode_complete hd _ _))
  · have hf := (State.begun_fetch (cfg.opc.complete :: rest) answers).trans
      (decode_complete (opcDistinct_of_configFault hc) 0 rest)
    exact ⟨_, run_playback_two _ answers hc (step_complete (State.begun_ready _ answers) hf), rfl, rfl, rfl⟩

theorem decode_unsupported {opc : OpcTable} {op : Byte} (h : op ∉ opcValues opc) (L : U32) (bs : List Byte) :
    decode opc L (op :: bs) = .failed (.unsupported op) := by
  simp only [opcValues, List.mem_cons, List.not_mem_nil, or_false, not_or] at h
  obtain ⟨hcomplete, hmask, hsir, hdata, hrun, hsize, hcmp⟩ := h
  rw [decode, if_neg hmask, if_neg hrun, if_neg hsize, if_neg hsir, if_neg hdata, if_neg hcmp, if_neg hcomplete]

/-- Settles O14: the byte selects no arm, so nothing is performed after the prologue. -/
theorem unsupportedOpcodeEndsThePlayback : Obligations.UnsupportedOpcodeEndsThePlayback := by
  refine ⟨fun s hs hpc hop => ?_, fun cfg op rest answers hc hop => ?_⟩
  · exact step_failed hs ((State.fetch_opcode s hpc rfl).trans (decode_unsupported hop _ _))
  · have hf := (State.begun_fetch (op :: rest) answers).trans (decode_unsupported hop 0 rest)
    exact ⟨_, run_playback_two _ answers hc (step_failed (State.begun_ready _ answers) hf), rfl, rfl, rfl⟩

/-! ### Zero-length shifts under `Literal` (R164) -/

/-- The events of a scan of no bits: the entry, the exit, the idle pulses. -/
theorem scanEvents_nil (enter exit : Transition) (idle : U32) :
    scanEvents enter exit [] idle = transitionEvents enter ++ transitionEvents exit ++ idleEvents idle.toNat := by
  rw [scanEvents, List.append_nil]

/-- Sampling no bits is a scan of no bits. -/
theorem scanDrSample_zero (s : State) :
    scanDrSample 0 s = s.perform (scanEvents s.cfg.seq.enterSdr s.cfg.seq.exitIdle [] s.idleClocks) := by
  rw [scanDrSample_eq]
  rfl

/-- A compare over no bytes matches at the first attempt (42_compare_retry.md R174). -/
theorem attempts_zero (r : Nat) (s : State) :
    attempts 0 0 (r + 1) s = s.perform (scanEvents s.cfg.seq.enterSdr s.cfg.seq.exitIdle [] s.idleClocks) :=
  (show attempts 0 0 (r + 1) s = scanDrSample 0 s from rfl).trans (scanDrSample_zero s)

theorem exec_shiftDataCompare_scans {s : State} {ps : List (Byte × Byte)}
    (hz : ¬ (s.shiftLength.toNat = 0 ∧ s.cfg.zeroShift = .refuse)) (hroom : ps.length ≤ s.cfg.bufCap) :
    exec (.shiftDataCompare ps) s =
      .next (attempts s.shiftLength.toNat ps.length maxAttempts (s.compareLoaded ps)) := by
  rw [exec, execShiftDataCompare, if_neg (mt State.refusesShift_iff.1 hz), State.withRoom_of_le hroom]
  rfl

/-- From Run-Test/Idle, a scan of no bits leaves the target where its two transitions lead, if TMS low keeps that state. -/
theorem State.tap_emptyScan {s : State} (hshown : s.LinesShown) (hlow : s.lines.tck = .driven false)
    (htap : s.tap = some .runTestIdle) {enter exit : Transition} {t : TapState} (idle : U32)
    (hreach : (TapState.runTestIdle.after (transitionLevels enter)).after (transitionLevels exit) = t)
    (hstay : t.next false = t) (hcount : 0 < exit.count) (hend : exit.pattern.getLsbD (exit.count - 1) = false) :
    (s.perform (scanEvents enter exit [] idle)).tap = some t := by
  have hlow' : (observe s.trace).lines.tck = .driven false := by rw [hshown]; exact hlow
  have hlow1 := (pulsed_transitionEvents enter).tck_linesAfter _ hlow'
  have hknown := Observer.knownTap_transition (by rw [Observer.lines_seeAll]; exact hlow1)
    (Observer.knownTap_transition hlow' htap enter) exit
  rw [hreach] at hknown
  have hlines : (((observe s.trace).seeAll (transitionEvents enter)).seeAll (transitionEvents exit)).lines = _ :=
    (Observer.lines_seeAll _ _).trans (linesAfter_fsmEvents _ exit.pattern hcount)
  rw [hend] at hlines
  rw [State.tap, State.perform_trace, scanEvents_nil, observe_append, Observer.seeAll_append, Observer.seeAll_append]
  exact Observer.knownTap_idle (congrArg Lines.tck hlines) (congrArg Lines.tms hlines) hknown hstay _

/-- Settles O23: a shift of no bits is a scan of no bits, the compare over no bytes included, and the exit transition from a Shift state
goes to Pause. -/
theorem literalZeroLengthShiftPauses : Obligations.LiteralZeroLengthShiftPauses := by
  intro s hlit
  have hscans {w : Nat} (bits : BitVec w) : ¬ (bits.toNat = 0 ∧ s.cfg.zeroShift = .refuse) := not_refusesShift (.inr hlit)
  refine ⟨⟨_, exec_shiftInstruction_scans (Nat.zero_le _) (hscans 0) (Nat.zero_le _), ?_, fun hseq hshown hlow htap => ?_⟩,
    fun hL => ⟨_, exec_shiftData_scans (hscans _) (Nat.zero_le _), ?_, ?_, fun hseq hshown hlow htap => ?_⟩⟩
  · rw [← scanEvents_nil]
    rfl
  · rw [hseq]
    exact State.tap_emptyScan (s := (s.loadData []).advance 2) hshown hlow htap s.idleClocks rfl rfl (by decide) (by decide)
  · rw [hL, ← scanEvents_nil]
    rfl
  · have hbits : s.shiftLength.toNat = 0 := by rw [hL]; rfl
    rw [exec_shiftDataCompare_scans (hscans _) (Nat.zero_le _), hbits, List.length_nil, attempts_zero 31]
    rfl
  · rw [hseq, hL]
    exact State.tap_emptyScan (s := (s.loadData []).advance 1) hshown hlow htap s.idleClocks rfl rfl (by decide) (by decide)

end Sys2Proof.Machine

/-! PROOFS, family of 41_opcodes.md: what a failing record leaves unchanged, that nothing performed is undone, and that every playback
ends. -/

namespace Sys2Proof.Machine

/-! ### Failing records (R165) -/

/-- The retry loop keeps the status or raises the mismatch (42_compare_retry.md R170, R177). -/
theorem attempts_status (bits m r : Nat) (s : State) : (attempts bits m (r + 1) s).status = s.status ∨
    ∃ got mask expected, (attempts bits m (r + 1) s).status = .done (.mismatch got mask expected) := by
  obtain ⟨a, out, st, he, -, -, hst⟩ := attempts_next bits m r s
  rw [he]
  exact hst.imp_right And.right

/-- What a record leaves on the status: it ends with success, it is a failed compare, or it keeps the status or changes nothing but the
status. -/
theorem exec_status {i : Instr} {s t : State} (h : exec i s = .next t) :
    t.status = .done .success ∨ (∃ got mask expected, t.status = .done (.mismatch got mask expected)) ∨
      t.status = s.status ∨ t = s.setStatus t.status := by
  cases i with
  | complete => obtain rfl := execComplete_next h; exact .inl rfl
  | declareTdoMask v => obtain ⟨-, rfl⟩ := execDeclareTdoMask_next h; exact .inr (.inr (.inl rfl))
  | declareRunTest c => obtain rfl := execDeclareRunTest_next h; exact .inr (.inr (.inl rfl))
  | declareShiftSize c =>
    obtain ⟨-, rfl⟩ | ⟨-, rfl⟩ := execDeclareShiftSize_next h
    · exact .inr (.inr (.inr rfl))
    · exact .inr (.inr (.inl rfl))
  | shiftInstruction n v =>
    obtain ⟨-, rfl⟩ | ⟨-, -, rfl⟩ | ⟨-, -, -, rfl⟩ := execShiftInstruction_next h
    · exact .inr (.inr (.inr rfl))
    · exact .inr (.inr (.inr rfl))
    · exact .inr (.inr (.inl rfl))
  | shiftData v =>
    obtain ⟨-, -, rfl⟩ | ⟨-, -, rfl⟩ := execShiftData_next h
    · exact .inr (.inr (.inr rfl))
    · exact .inr (.inr (.inl rfl))
  | shiftDataCompare ps =>
    obtain ⟨-, -, rfl⟩ | ⟨-, -, rfl⟩ := execShiftDataCompare_next h
    · exact .inr (.inr (.inr rfl))
    · obtain hkept | hmismatch := attempts_status s.shiftLength.toNat ps.length 31 (s.compareLoaded ps)
      · exact .inr (.inr (.inl hkept))
      · exact .inr (.inl hmismatch)

/-- The results and the refusals of a record that does nothing else (60_exceptions.md R204, R209). -/
def Status.StatusOnly (st : Status) : Prop :=
  (∃ o, st = .done (.truncatedProgram o)) ∨ (∃ c, st = .done (.capacity c)) ∨ (∃ op, st = .done (.badCommand op)) ∨
    ∃ r, st = .refused r

theorem Status.StatusOnly.ne {st : Status} (h : st.StatusOnly) :
    st ≠ .running ∧ st ≠ .done .success ∧ ∀ got mask expected, st ≠ .done (.mismatch got mask expected) := by
  obtain ⟨o, rfl⟩ | ⟨c, rfl⟩ | ⟨op, rfl⟩ | ⟨r, rfl⟩ := h <;> exact ⟨nofun, nofun, nofun⟩

/-- Settles O30: of what a record can leave on the status, these come only with nothing else changed; so do bytes that are no record. -/
theorem failingRecordsChangeOnlyTheStatus : Obligations.FailingRecordsChangeOnlyTheStatus := by
  intro s t ⟨hrun, hdone⟩ h hfails
  obtain ⟨hrunning, hsuccess, hmismatch⟩ := Status.StatusOnly.ne hfails
  obtain ⟨⟨r, hr⟩, -⟩ | ⟨-, hp, -⟩ | ⟨-, i, rest, -, hx⟩ | ⟨-, e, -, rfl⟩ := step_next h
  · rw [hrun] at hr; cases hr
  · rw [hdone] at hp; cases hp
  · obtain hs | ⟨got, mask, expected, hm⟩ | hkept | ht := exec_status hx
    · exact absurd hs hsuccess
    · exact absurd hm (hmismatch got mask expected)
    · exact absurd (hkept.trans hrun) hrunning
    · exact ht
  · rfl

/-! ### Nothing is undone (R167) -/

/-- A playback that is done stays as it is over any run (70_reset_and_hazards.md R238; log 11). -/
theorem run_done {s : State} {r : Result} (h : s.status = .done r) (k : Nat) : Host.Core.run core k s = .next s := by
  induction k with
  | zero => rfl
  | succ k ih => rw [run_of_step_next (step_done h), ih]

/-- Settles O32: a step adds its events to the trace, and a done playback steps to itself. -/
theorem errorsAbortAtOnceAndUndoNothing : Obligations.ErrorsAbortAtOnceAndUndoNothing := by
  refine ⟨fun s t h => ?_, fun s t r _ hr k => run_done hr k⟩
  obtain ⟨es, -, htrace, -⟩ := step_pins h
  exact ⟨es, htrace.symm⟩

/-! ### Every playback ends (R166) -/

/-- A step leaves alone which pin operation never returns (log 29). -/
theorem step_hangsAt {s t : State} (h : step s = .next t) : t.hangsAt = s.hangsAt := by
  obtain ⟨-, rfl⟩ | ⟨-, -, rfl⟩ | ⟨-, i, rest, -, hx⟩ | ⟨-, e, -, rfl⟩ := step_next h
  · rfl
  · obtain ⟨f, -, hs⟩ | ⟨-, hs⟩ := State.start_cases s <;> simp [hs]
  · obtain ⟨-, -, -, -, hhangs, -⟩ := accessSummaryOfEveryOpcode i s t hx
    exact hhangs
  · rfl

/-- A run of at most `n` steps ends the playback, or leaves the block stuck in a pin operation that never returns (R235). -/
def State.EndsWithin (s : State) (n : Nat) : Prop :=
  ∃ k, k ≤ n ∧ ((∃ t, Host.Core.run core k s = .next t ∧ t.Ended) ∨
    ∃ m es, s.hangsAt = some m ∧ Host.Core.run core k s = .fault (.pinNeverReturns es))

theorem coreRun_fault_of_step (M : Host.Core) {k : Nat} {a : M.State} {r : M.Fault} (h : M.step a = .fault r) :
    M.run (k + 1) a = .fault r := by rw [Host.Core.run, h]

section Ending

variable {s : State} {n : Nat}

theorem State.Ended.endsWithin (h : s.Ended) (n : Nat) : s.EndsWithin n := ⟨0, Nat.zero_le n, .inl ⟨s, rfl, h⟩⟩

/-- A playback ends one step later than every state its next step can answer. -/
theorem State.Inv.endsWithin_succ (hinv : s.Inv)
    (hnext : s.status = .running → ∀ t, step s = .next t → t.EndsWithin n) : s.EndsWithin (n + 1) := by
  by_cases hr : s.status = .running
  · obtain ⟨t, hs⟩ | ⟨m, es, hm, hs⟩ | ⟨why, hwhy, -⟩ := hinv.step_cases
    · obtain ⟨k, hk, hrun⟩ := hnext hr t hs
      rw [← run_of_step_next hs, step_hangsAt hs] at hrun
      exact ⟨k + 1, Nat.succ_le_succ hk, hrun⟩
    · exact ⟨1, Nat.succ_le_succ (Nat.zero_le n), .inr ⟨m, es, hm, coreRun_fault_of_step core hs⟩⟩
    · rw [hr] at hwhy; cases hwhy
  · exact State.Ended.endsWithin hr _

/-- After the prologue a step ends the playback or leaves fewer program bytes to read: every record has at least one (R76). -/
theorem State.Inv.step_progress (hinv : s.Inv) (hr : s.status = .running) (hp : s.prologueDone = true) {t : State}
    (h : step s = .next t) :
    t.Ended ∨ (t.Inv ∧ t.prologueDone = true ∧ t.progLen - t.pc < s.progLen - s.pc) := by
  obtain ⟨-, hend⟩ | ⟨i, rest, -, hpc, hpos, hle⟩ := cursorMovesByTheRecordLength s t ⟨hr, hp⟩ hinv h
  · exact .inl hend
  · obtain ⟨-, hlen, -⟩ := step_program h
    exact .inr ⟨stepKeepsTheInvariant s t hinv h, step_keeps_prologueDone hp h, by omega⟩

/-- After the prologue there is at most one step for each byte left, and one more that finds none. -/
theorem State.Inv.endsWithin_ready (hinv : s.Inv) (hp : s.prologueDone = true) (hn : s.progLen - s.pc ≤ n) :
    s.EndsWithin (n + 1) := by
  induction n generalizing s with
  | zero =>
    refine hinv.endsWithin_succ fun hr t h => ?_
    obtain hend | ⟨-, -, hlt⟩ := hinv.step_progress hr hp h
    · exact hend.endsWithin 0
    · omega
  | succ n ih =>
    refine hinv.endsWithin_succ fun hr t h => ?_
    obtain hend | ⟨hinv', hp', hlt⟩ := hinv.step_progress hr hp h
    · exact hend.endsWithin _
    · exact ih hinv' hp' (by omega)

/-- Before the prologue there is one step more. -/
theorem State.Inv.endsWithin_fresh (hinv : s.Inv) (hp : s.prologueDone = false) : s.EndsWithin (s.progLen - s.pc + 2) := by
  refine hinv.endsWithin_succ fun hr t h => ?_
  rw [step_start hr hp] at h
  cases awaitPins_next h
  obtain ⟨f, -, hs⟩ | ⟨-, hs⟩ := State.start_cases s
  · have hend : (s.setStatus (.refused (.badConfig f))).Ended := nofun
    rw [hs]
    exact hend.endsWithin _
  · refine hinv.start.endsWithin_ready ?_ ?_ <;> rw [hs]
    · rfl
    · exact le_refl _

/-- The bound of R166, with the prologue to come or done. -/
theorem State.Inv.endsWithin (hinv : s.Inv) : ∃ n, n ≤ s.progLen - s.pc + 2 ∧
    (s.prologueDone = true → n ≤ s.progLen - s.pc + 1) ∧ s.EndsWithin n := by
  cases hp : s.prologueDone with
  | true => exact ⟨s.progLen - s.pc + 1, Nat.le_succ _, fun _ => le_refl _, hinv.endsWithin_ready hp (le_refl _)⟩
  | false => exact ⟨s.progLen - s.pc + 2, le_refl _, nofun, hinv.endsWithin_fresh hp⟩

end Ending

/-- The start of every playback has the invariant. -/
theorem State.playback_inv (cfg : Config) (program : List Byte) (answers : List Bool) :
    (State.playback cfg program answers).Inv := by
  have hempty (n : Nat) : Memory.Fits [] n := ⟨⟨.nil, nofun⟩, nofun⟩
  exact {
    prog_fits := (hempty program.length).writeBytes (le_refl _)
    inMask_fits := hempty _
    inData_fits := hempty _
    outData_fits := hempty _
    expData_fits := hempty _
    pc_le := Nat.zero_le _
    shiftLength_le := Nat.zero_le _
    lines_shown := rfl
    tck_low := rfl
    fresh := fun _ => ⟨rfl, rfl⟩ }

/-- Settles O44: the cursor moves with every step that does not end the playback, and cannot pass the program's end. -/
theorem everyPlaybackEnds : Obligations.EveryPlaybackEnds := by
  refine ⟨fun s hinv hreturns => ?_, fun s hinv => ?_, fun cfg program answers => ?_⟩
  · obtain ⟨n, hn, hdone, k, hk, ⟨t, hrun, hend⟩ | ⟨m, es, hm, -⟩⟩ := hinv.endsWithin
    · exact ⟨k, t, hk.trans hn, fun hp => hk.trans (hdone hp), hrun, hend⟩
    · rw [hreturns] at hm; cases hm
  · obtain ⟨n, hn, hdone, k, hk, hends | ⟨m, es, -, hstuck⟩⟩ := hinv.endsWithin
    · exact ⟨k, hk.trans hn, fun hp => hk.trans (hdone hp), .inl hends⟩
    · exact ⟨k, hk.trans hn, fun hp => hk.trans (hdone hp), .inr ⟨es, hstuck⟩⟩
  · obtain ⟨n, hn, -, k, hk, ⟨t, hrun, hend⟩ | ⟨m, es, hm, -⟩⟩ := (State.playback_inv cfg program answers).endsWithin
    · exact ⟨k, t, hk.trans hn, hrun, hend⟩
    · cases hm

end Sys2Proof.Machine

/-! PROOFS, family of 42_compare_retry.md: what a compare record leaves, attempt by attempt, and where it stops. -/

namespace Sys2Proof.Machine

/-! ### The operand of a compare record (R171) -/

/-- A buffer loaded with one component of each pair: that component below the number of pairs, the bytes above as before. -/
theorem Memory.read_loadPairs (buf : Memory) (ps : List (Byte × Byte)) (f : Byte × Byte → Byte) (a : Nat) :
    (buf.writeBytes 0 (ps.map f)).read a = if h : a < ps.length then f ps[a] else buf.read a := by
  rw [Memory.read_load buf (List.length_map f)]
  by_cases h : a < ps.length <;> simp [h]

/-- Interleaved bytes: byte 2i is the first of pair i, byte 2i+1 the second. -/
theorem getD_interleave (ps : List (Byte × Byte)) (i : Nat) (h : i < ps.length) :
    (interleave ps).getD (2 * i) 0 = ps[i].1 ∧ (interleave ps).getD (2 * i + 1) 0 = ps[i].2 := by
  induction ps generalizing i with
  | nil => exact absurd h (Nat.not_lt_zero i)
  | cons p ps ih =>
    cases i with
    | zero => exact ⟨rfl, rfl⟩
    | succ i => exact ih i (Nat.lt_of_succ_lt_succ h)

/-- A well-formed compare record has one pair for each byte the shift needs (30_encoding.md R72). -/
theorem length_of_wellFormed_compare {ps : List (Byte × Byte)} {L : U32} (h : (Instr.shiftDataCompare ps).WellFormed L = true) :
    ps.length = ceil8 L.toNat := by
  simpa [Instr.WellFormed] using h

section Compared

variable (s : State) (ps : List (Byte × Byte)) (n : Nat) (out : Memory) (st : Status)

@[simp] theorem State.compared_inMask : (s.compared ps n out st).inMask = s.inMask := by
  simp [State.compared, State.compareLoaded]

@[simp] theorem State.compared_inData : (s.compared ps n out st).inData = s.inData.writeBytes 0 (ps.map Prod.fst) := rfl

@[simp] theorem State.compared_expData : (s.compared ps n out st).expData = s.expData.writeBytes 0 (ps.map Prod.snd) := rfl

@[simp] theorem State.compared_outData : (s.compared ps n out st).outData = out := rfl

end Compared

/-! ### The attempts of a compare record (R172, R174) -/

section Attempts

variable {s : State} {ps : List (Byte × Byte)}

theorem sampleEvents_congr {n : Nat} {bit bit' : Nat → Bool} (answer : Nat → Bool) (h : ∀ k, k < n → bit k = bit' k) :
    sampleEvents n bit answer = sampleEvents n bit' answer :=
  List.flatMap_congr fun k hk => by rw [h k (List.mem_range.1 hk)]

/-- What a compare record leaves, as its effect on the fields: the attempts' events with the operand's bits, the answers taken, the
loaded buffers, the cursor past the record. -/
theorem State.compared_eq (hps : ps.length = ceil8 s.shiftLength.toNat) (n : Nat) (out : Memory) (st : Status) :
    s.compared ps n out st = { s.perform (s.attemptsEvents ps n) with
      inData := (s.compared ps n out st).inData
      expData := (s.compared ps n out st).expData
      outData := out
      tdoNext := s.tdoNext.drop (n * s.shiftLength.toNat)
      tdoDraws := s.tdoDraws + n * s.shiftLength.toNat
      pc := s.pc + 1 + 2 * ps.length
      status := st } := by
  have hv : (ps.map Prod.fst).length = ceil8 s.shiftLength.toNat := (List.length_map _).trans hps
  have hevents (b : Nat) : scanEvents s.cfg.seq.enterSdr s.cfg.seq.exitIdle (sampleEvents s.shiftLength.toNat
      (s.loadPairs ps).inData.bit (s.attemptAnswer s.shiftLength.toNat b)) s.idleClocks = s.attemptEvents ps b :=
    congrArg (scanEvents _ _ · _) (sampleEvents_congr _ fun _ hk => Memory.bit_writeBytes s.inData hv hk)
  rw [State.compared_inData, State.compared_expData, State.compared, State.compareLoaded, Nat.add_assoc]
  simp only [hevents, State.attemptsEvents, State.perform, State.setStatus, State.setOutData, State.skipAnswers, State.advance,
    State.loadData, State.loadExpected]

/-- A sample buffer that holds the samples of attempt `a` over the compared bytes, and above them what was there before. -/
def State.HoldsSamples (s : State) (ps : List (Byte × Byte)) (a : Nat) (out : Memory) : Prop :=
  ∀ x, out.read x = if x < ps.length then sampledByte s.shiftLength.toNat (s.attemptAnswer s.shiftLength.toNat a) x
    else s.outData.read x

/-- The state after `a + 1` attempts holds the samples of attempt `a`. -/
theorem State.afterAttempts_compared (hps : ps.length = ceil8 s.shiftLength.toNat) (a : Nat) :
    ∃ out, afterAttempts s.shiftLength.toNat (a + 1) (s.compareLoaded ps) = s.compared ps (a + 1) out s.status ∧
      s.HoldsSamples ps a out := by
  unfold State.HoldsSamples
  rw [hps]
  exact afterAttempts_eq (s.compareLoaded ps) s.shiftLength.toNat a

/-- The block's compare of the samples of attempt `a` is the rule's (R174). -/
theorem State.HoldsSamples.compareMatches_iff {a : Nat} {out : Memory} (hout : s.HoldsSamples ps a out) (n : Nat) (st : Status) :
    (s.compared ps n out st).compareMatches ps.length = true ↔ s.attemptMatches ps a := by
  simp only [State.compareMatches, List.all_eq_true, List.mem_range, beq_iff_eq, State.compared_outData, State.compared_inMask,
    State.compared_expData, Memory.read_loadPairs]
  refine forall₂_congr fun i hi => ?_
  rw [hout, if_pos hi, dif_pos hi]

/-- The mismatch that attempt `a` would end in: its samples, the mask and the expected bytes (R177). -/
def State.attemptMismatch (s : State) (ps : List (Byte × Byte)) (a : Nat) : Result :=
  .mismatch ((List.range ps.length).map (sampledByte s.shiftLength.toNat (s.attemptAnswer s.shiftLength.toNat a)))
    ((List.range ps.length).map s.inMask.read) (ps.map Prod.snd)

/-- The block's outcome of exhausted retries, with the samples of attempt `a` in the buffer, is that attempt's mismatch. -/
theorem State.HoldsSamples.mismatchOutcome_eq {a : Nat} {out : Memory} (hout : s.HoldsSamples ps a out) (n : Nat) (st : Status) :
    (s.compared ps n out st).mismatchOutcome ps.length = s.attemptMismatch ps a := by
  have hgot : out.readBytes 0 ps.length =
      (List.range ps.length).map (sampledByte s.shiftLength.toNat (s.attemptAnswer s.shiftLength.toNat a)) :=
    List.map_congr_left fun i hi => by rw [Nat.zero_add, hout, if_pos (List.mem_range.1 hi)]
  have hmask : s.inMask.readBytes 0 ps.length = (List.range ps.length).map s.inMask.read :=
    List.map_congr_left fun i _ => by rw [Nat.zero_add]
  have hexpected : (s.expData.writeBytes 0 (ps.map Prod.snd)).readBytes 0 ps.length = ps.map Prod.snd := by
    refine List.ext_getElem (by simp) fun i hi _ => ?_
    have hlt : i < ps.length := by simpa using hi
    simp [Memory.readBytes, Memory.read_loadPairs, hlt]
  rw [State.mismatchOutcome, State.compared_outData, State.compared_inMask, State.compared_expData, hgot, hmask, hexpected,
    State.attemptMismatch]

/-- The block's compare after `a + 1` attempts decides whether attempt `a` matches. -/
theorem State.compareMatches_afterAttempts (hps : ps.length = ceil8 s.shiftLength.toNat) (a : Nat) :
    (afterAttempts s.shiftLength.toNat (a + 1) (s.compareLoaded ps)).compareMatches ps.length = true ↔ s.attemptMatches ps a := by
  obtain ⟨out, he, hout⟩ := State.afterAttempts_compared hps a
  rw [he, hout.compareMatches_iff]

/-- What attempt `a` decides when it is the last one made: it matches and the status is kept, or it is the 32nd, does not match either,
and the mismatch is raised (R176, R177). -/
def State.EndsAtAttempt (s : State) (ps : List (Byte × Byte)) (a : Nat) (st : Status) : Prop :=
  (s.attemptMatches ps a ∧ st = s.status) ∨
  (a = 31 ∧ ¬ s.attemptMatches ps a ∧ st = .done (s.attemptMismatch ps a))

/-- What a compare record that is not refused does: it makes attempts, none but the last of which matches, and leaves the samples of the
last (R170, R173, R178). -/
theorem exec_shiftDataCompare_ends (hw : (Instr.shiftDataCompare ps).WellFormed s.shiftLength = true)
    (hL : s.shiftLength.toNat ≤ 8 * s.cfg.bufCap) (hz : s.shiftLength ≠ 0 ∨ s.cfg.zeroShift = .literal) :
    ∃ a out st, exec (.shiftDataCompare ps) s = .next (s.compared ps (a + 1) out st) ∧ a < 32 ∧ s.HoldsSamples ps a out ∧
      (∀ b, b < a → ¬ s.attemptMatches ps b) ∧ s.EndsAtAttempt ps a st := by
  have hps := length_of_wellFormed_compare hw
  have hfails {b : Nat} (hb : (afterAttempts s.shiftLength.toNat (b + 1) (s.compareLoaded ps)).compareMatches ps.length = false) :
      ¬ s.attemptMatches ps b := by
    rw [← State.compareMatches_afterAttempts hps, hb]
    exact Bool.false_ne_true
  rw [exec_shiftDataCompare_scans (not_refusesShift hz) (hps ▸ ceil8_le_iff.2 hL)]
  obtain ⟨a, ha, hbefore, hmatch, he⟩ | ⟨hall, he⟩ :=
    attempts_cases (s.compareLoaded ps) s.shiftLength.toNat ps.length maxAttempts
  · obtain ⟨out, hlast, hout⟩ := State.afterAttempts_compared hps a
    exact ⟨a, out, s.status, congrArg _ (he.trans hlast), ha, hout, fun b hb => hfails (hbefore b hb),
      .inl ⟨(State.compareMatches_afterAttempts hps a).1 hmatch, rfl⟩⟩
  · obtain ⟨out, hlast, hout⟩ := State.afterAttempts_compared hps 31
    rw [hlast, hout.mismatchOutcome_eq] at he
    exact ⟨31, out, _, congrArg _ he, by decide, hout, fun b hb => hfails (hall b (hb.trans (by decide))),
      .inr ⟨rfl, hfails (hall 31 (by decide)), rfl⟩⟩

/-- Where some attempt matches, the record ends at the first that does, with the status it had (R176). -/
theorem State.EndsAtAttempt.of_firstMatch {a n : Nat} {st : Status} (h : s.EndsAtAttempt ps a st)
    (hbefore : ∀ b, b < a → ¬ s.attemptMatches ps b) (hn : n < 32) (hmatch : s.attemptMatches ps n)
    (hfirst : ∀ b, b < n → ¬ s.attemptMatches ps b) : a = n ∧ st = s.status := by
  have hna : a ≤ n := Nat.not_lt.1 fun hlt => hbefore n hlt hmatch
  obtain ⟨hmatchA, rfl⟩ | ⟨rfl, hfail, -⟩ := h
  · exact ⟨le_antisymm hna (Nat.not_lt.1 fun hlt => hfirst a hlt hmatchA), rfl⟩
  · obtain rfl : n = 31 := by omega
    exact absurd hmatch hfail

/-- Where none of 32 attempts matches, the record ends at the 32nd with the mismatch (R177). -/
theorem State.EndsAtAttempt.of_noMatch {a : Nat} {st : Status} (h : s.EndsAtAttempt ps a st) (ha : a < 32)
    (hnone : ∀ b, b < 32 → ¬ s.attemptMatches ps b) :
    a = 31 ∧ st = .done (s.attemptMismatch ps 31) := by
  obtain ⟨hmatch, -⟩ | ⟨rfl, -, hst⟩ := h
  · exact absurd hmatch (hnone a ha)
  · exact ⟨rfl, hst⟩

/-! ### Masks that decide the compare -/

/-- Under a mask of zeros over the compared bytes every attempt matches (R175). -/
theorem State.attemptMatches_of_zeroMask (hmask : ∀ a, a < ps.length → s.inMask.read a = 0) (a : Nat) : s.attemptMatches ps a := by
  intro i hi
  rw [hmask i hi]
  exact BitVec.and_zero.trans BitVec.and_zero.symm

/-- Where the mask has a bit past the last sample and the expected bit there is 1, no attempt matches: the sampled bit is 0 (R174). -/
theorem State.not_attemptMatches_of_unusedBit {i j : Nat} (hi : i < ps.length) (hj : j < 8)
    (hunused : s.shiftLength.toNat ≤ 8 * i + j) (hmask : (s.inMask.read i).getLsbD j = true)
    (hexpected : (ps[i].2).getLsbD j = true) (a : Nat) : ¬ s.attemptMatches ps a := by
  intro hmatch
  have hbit := congrArg (BitVec.getLsbD · j) (hmatch i hi)
  simp [getLsbD_sampledByte _ _ _ _ hj, hmask, hexpected, Nat.not_lt.2 hunused] at hbit

end Attempts

/-! ### The obligations -/

/-- Settles O24: the first attempt that matches, and the 32nd where none does, is the last attempt the record makes. -/
theorem compareStopsAtTheFirstMatchOrAfter32Attempts : Obligations.CompareStopsAtTheFirstMatchOrAfter32Attempts := by
  intro s ps hw hL hz
  have hps := length_of_wellFormed_compare hw
  obtain ⟨a, out, st, he, ha, hout, hbefore, hends⟩ := exec_shiftDataCompare_ends hw hL hz
  refine ⟨_, he, Memory.read_loadPairs s.inData ps Prod.fst, Memory.read_loadPairs s.expData ps Prod.snd, fun n hn hmatch hfirst => ?_,
    fun hnone => ?_⟩
  · obtain ⟨rfl, rfl⟩ := hends.of_firstMatch hbefore hn hmatch hfirst
    exact ⟨State.compared_eq hps _ out s.status, hout⟩
  · obtain ⟨rfl, rfl⟩ := hends.of_noMatch ha hnone
    exact ⟨State.compared_eq hps _ out _, hout⟩

/-- Settles O26: the mask lets attempt 0 match, so no attempt precedes the last one. -/
theorem zeroMaskMatchesOnTheFirstAttempt : Obligations.ZeroMaskMatchesOnTheFirstAttempt := by
  intro s ps hw hL hz hmask
  have hps := length_of_wellFormed_compare hw
  have hmatch := State.attemptMatches_of_zeroMask hmask
  obtain ⟨a, out, st, he, -, -, hbefore, hends⟩ := exec_shiftDataCompare_ends hw hL hz
  obtain ⟨rfl, rfl⟩ := hends.of_firstMatch hbefore (by decide) (hmatch 0) fun b hb => absurd hb (Nat.not_lt_zero b)
  rw [State.compared_eq hps] at he
  refine ⟨_, he, rfl, ?_, ?_⟩
  · simp [State.attemptsEvents]
  · simp

/-- Settles O27: the sampled bit is 0 in every attempt, so none matches. -/
theorem unusedBitExpectedOneNeverMatches : Obligations.UnusedBitExpectedOneNeverMatches := by
  intro s ps i j hw hL hnz hi hj hunused hmask hexpected
  have hps := length_of_wellFormed_compare hw
  obtain ⟨a, out, st, he, ha, -, -, hends⟩ := exec_shiftDataCompare_ends hw hL (.inl hnz)
  obtain ⟨rfl, rfl⟩ := hends.of_noMatch ha fun b _ => State.not_attemptMatches_of_unusedBit hi hj hunused hmask hexpected b
  rw [State.compared_eq hps] at he
  exact ⟨_, _, _, _, he, rfl, rfl⟩

/-! ### The operand split and the mask along a step (R171) -/

/-- A step at a compare record's opcode runs the operand bytes as pairs. -/
theorem step_shiftDataCompare {s t : State} {v rest : List Byte} (hs : s.Ready) (hd : opcDistinct s.cfg.opc = true)
    (hbytes : s.programFrom s.pc = s.cfg.opc.shiftDataCompare :: (v ++ rest)) (hv : v.length = 2 * ceil8 s.shiftLength.toNat)
    (h : step s = .next t) : exec (.shiftDataCompare (pairUp v)) s = .next t := by
  have hf : s.fetch = .record (.shiftDataCompare (pairUp v)) rest := by
    rw [State.fetch, hbytes, decode_shiftDataCompare hd, decodeCmp, takeBytes_append_of_length hv]
  rw [step_record hs hf] at h
  exact awaitPins_next h

/-- A step writes the mask only where it runs a declare-TDO-mask, whose bytes it then writes. -/
theorem step_inMask {s t : State} (h : step s = .next t) : t.inMask = s.inMask ∨
    ∃ mask rest, s.Ready ∧ s.fetch = .record (.declareTdoMask mask) rest ∧ t.inMask = s.inMask.writeBytes 0 mask := by
  obtain ⟨-, rfl⟩ | ⟨-, -, rfl⟩ | ⟨hs, i, rest, hf, hx⟩ | ⟨-, e, -, rfl⟩ := step_next h
  · exact .inl rfl
  · obtain ⟨f, -, hstart⟩ | ⟨-, hstart⟩ := State.start_cases s <;> exact .inl (by rw [hstart]; rfl)
  · by_cases hi : ∃ mask, i = .declareTdoMask mask
    · obtain ⟨mask, rfl⟩ := hi
      obtain ⟨-, rfl⟩ := execDeclareTdoMask_next hx
      exact .inr ⟨mask, rest, hs, hf, rfl⟩
    · obtain ⟨-, -, -, -, -, hmask, -⟩ := accessSummaryOfEveryOpcode i s t hx
      exact .inl (hmask fun mask him => hi ⟨mask, him⟩)
  · exact .inl rfl

/-- Settles O25: the operand is its pairs, interleaved; only a declare-TDO-mask writes the mask, which starts empty. -/
theorem compareOperandSplit : Obligations.CompareOperandSplit := by
  refine ⟨fun s t v rest hs hd _ hbytes hv h => ?_, fun s t h => step_inMask h, fun cfg program answers a => rfl⟩
  obtain ⟨hbytePairs, hlen⟩ := interleave_pairUp _ v hv
  obtain ⟨hzero, rfl⟩ | ⟨n, out, st, -, -, -, rfl, -⟩ :=
    execShiftDataCompare_compared (step_shiftDataCompare hs hd hbytes hv h)
  · exact ⟨rfl, fun i hi => absurd hi (by simp [hzero, ceil8])⟩
  · refine ⟨s.compared_inMask _ n out st, fun i hi => ?_⟩
    have hpair : i < (pairUp v).length := hlen ▸ hi
    obtain ⟨hdata, hexpected⟩ := getD_interleave (pairUp v) i hpair
    rw [hbytePairs] at hdata hexpected
    rw [State.compared_inData, State.compared_expData, Memory.read_loadPairs, Memory.read_loadPairs, dif_pos hpair, dif_pos hpair]
    exact ⟨hdata.symm, hexpected.symm⟩

end Sys2Proof.Machine

/-! PROOFS, family of 60_exceptions.md: which record ends a playback with which outcome. -/

namespace Sys2Proof.Machine

/-! ### How a step from a record boundary can end a playback (R200) -/

/-- What bytes that are no record end in is an outcome of the status alone (R208). -/
theorem State.decodeOutcome_statusOnly (s : State) (e : DecodeError) : (Status.done (s.decodeOutcome e)).StatusOnly := by
  cases e with
  | missingOpcode => exact .inl ⟨_, rfl⟩
  | unsupported op => exact .inr (.inr (.inl ⟨op, rfl⟩))
  | shortCount => exact .inl ⟨_, rfl⟩
  | shortVector => exact .inl ⟨_, rfl⟩
  | shortInstruction n =>
    rw [State.decodeOutcome]
    split
    · exact .inr (.inl ⟨_, rfl⟩)
    · exact .inl ⟨_, rfl⟩

/-- A record that is neither the sentinel nor a compare keeps the status, or ends in an outcome of the status alone. -/
theorem exec_status_of_noEnd {i : Instr} {s t : State} (hc : i ≠ .complete) (hcmp : ∀ ps, i ≠ .shiftDataCompare ps)
    (h : exec i s = .next t) : t.status = s.status ∨ t.status.StatusOnly := by
  cases i with
  | complete => exact absurd rfl hc
  | declareTdoMask v => obtain ⟨-, rfl⟩ := execDeclareTdoMask_next h; exact .inl rfl
  | declareRunTest c => obtain rfl := execDeclareRunTest_next h; exact .inl rfl
  | declareShiftSize c =>
    obtain ⟨-, rfl⟩ | ⟨-, rfl⟩ := execDeclareShiftSize_next h
    · exact .inr (.inr (.inl ⟨_, rfl⟩))
    · exact .inl rfl
  | shiftInstruction n v =>
    obtain ⟨-, rfl⟩ | ⟨-, -, rfl⟩ | ⟨-, -, -, rfl⟩ := execShiftInstruction_next h
    · exact .inr (.inr (.inl ⟨_, rfl⟩))
    · exact .inr (.inr (.inr (.inr ⟨_, rfl⟩)))
    · exact .inl rfl
  | shiftData v =>
    obtain ⟨-, -, rfl⟩ | ⟨-, -, rfl⟩ := execShiftData_next h
    · exact .inr (.inr (.inr (.inr ⟨_, rfl⟩)))
    · exact .inl rfl
  | shiftDataCompare ps => exact absurd rfl (hcmp ps)

/-- A compare record keeps the status, ends in a mismatch, or is refused. -/
theorem execShiftDataCompare_status {ps : List (Byte × Byte)} {s t : State} (h : exec (.shiftDataCompare ps) s = .next t) :
    t.status = s.status ∨ (∃ got mask expected, t.status = .done (.mismatch got mask expected)) ∨ t.status.StatusOnly := by
  obtain ⟨-, -, rfl⟩ | ⟨-, -, rfl⟩ := execShiftDataCompare_next h
  · exact .inr (.inr (.inr (.inr (.inr ⟨_, rfl⟩))))
  · obtain hkept | hmismatch := attempts_status s.shiftLength.toNat ps.length 31 (s.compareLoaded ps)
    · exact .inl hkept
    · exact .inr (.inl hmismatch)

/-- A step from a record boundary that ends the playback does so by the sentinel, by a compare in a mismatch, or in an outcome of the
status alone. -/
theorem step_ends {s t : State} (hs : s.Ready) (h : step s = .next t) :
    t.status = .running ∨ t.status.StatusOnly ∨
    (∃ rest, s.fetch = .record .complete rest ∧ t = (s.advance 1).setStatus (.done .success)) ∨
    ∃ ps rest, s.fetch = .record (.shiftDataCompare ps) rest ∧ exec (.shiftDataCompare ps) s = .next t ∧
      ∃ got mask expected, t.status = .done (.mismatch got mask expected) := by
  obtain ⟨hrun, hdone⟩ := hs
  obtain ⟨⟨r, hr⟩, -⟩ | ⟨-, hp, -⟩ | ⟨-, i, rest, hf, hx⟩ | ⟨-, e, -, rfl⟩ := step_next h
  · rw [hrun] at hr; cases hr
  · rw [hdone] at hp; cases hp
  · by_cases hc : i = .complete
    · subst hc
      exact .inr (.inr (.inl ⟨rest, hf, execComplete_next hx⟩))
    by_cases hcmp : ∃ ps, i = .shiftDataCompare ps
    · obtain ⟨ps, rfl⟩ := hcmp
      obtain hkept | hmismatch | honly := execShiftDataCompare_status hx
      · exact .inl (hkept.trans hrun)
      · exact .inr (.inr (.inr ⟨ps, rest, hf, hx, hmismatch⟩))
      · exact .inr (.inl honly)
    · obtain hkept | honly := exec_status_of_noEnd hc (fun ps hi => hcmp ⟨ps, hi⟩) hx
      · exact .inl (hkept.trans hrun)
      · exact .inr (.inl honly)
  · exact .inr (.inl (s.decodeOutcome_statusOnly e))

/-- A record is fetched only where its opcode byte stands in the program at the cursor. -/
theorem State.opcode_of_fetch {s : State} {i : Instr} {rest : List Byte} (h : s.fetch = .record i rest) :
    s.pc < s.progLen ∧ s.prog.read s.pc = i.opcode s.cfg.opc := by
  obtain ⟨-, hpos, hle⟩ := State.fetch_record h
  have hpc : s.pc < s.progLen := by omega
  obtain ⟨-, hbytes⟩ := decode_record h
  rw [State.programFrom_cons s hpc] at hbytes
  exact ⟨hpc, (List.cons.inj hbytes).1⟩

/-- Settles O31: of the ways a step can end a playback, only the sentinel's is success. -/
theorem successOnlyFromTheSentinel : Obligations.SuccessOnlyFromTheSentinel := by
  intro s t hs h hsuccess
  obtain hrun | honly | ⟨rest, hf, rfl⟩ | ⟨ps, rest, -, -, got, mask, expected, hm⟩ := step_ends hs h
  · rw [hsuccess] at hrun; cases hrun
  · obtain ⟨-, hne, -⟩ := honly.ne
    exact absurd hsuccess hne
  · obtain ⟨hpc, hop⟩ := State.opcode_of_fetch hf
    exact ⟨hpc, hop, rfl⟩
  · rw [hsuccess] at hm; cases hm

/-- A compare record that raises the mismatch has made 32 attempts, none of which matched, and ends in the mismatch of the last (R177). -/
theorem exec_shiftDataCompare_mismatch {s t : State} {ps : List (Byte × Byte)} {got mask expected : List Byte}
    (hrun : s.status = .running) (hw : (Instr.shiftDataCompare ps).WellFormed s.shiftLength = true)
    (h : exec (.shiftDataCompare ps) s = .next t) (hm : t.status = .done (.mismatch got mask expected)) :
    (∀ a, a < 32 → ¬ s.attemptMatches ps a) ∧
      ∃ out, t = s.compared ps 32 out (.done (s.attemptMismatch ps 31)) := by
  obtain ⟨-, -, rfl⟩ | ⟨hz, hroom, -⟩ := execShiftDataCompare_next h
  · cases hm
  have hL : s.shiftLength.toNat ≤ 8 * s.cfg.bufCap := ceil8_le_iff.1 (length_of_wellFormed_compare hw ▸ hroom)
  have hscans : s.shiftLength ≠ 0 ∨ s.cfg.zeroShift = .literal := by
    cases hzero : s.cfg.zeroShift with
    | literal => exact .inr rfl
    | refuse => exact .inl fun h0 => hz ⟨by rw [h0]; rfl, hzero⟩
  obtain ⟨a, out, st, he, -, -, hbefore, hends⟩ := exec_shiftDataCompare_ends hw hL hscans
  cases h.symm.trans he
  have hst : st = .done (.mismatch got mask expected) := hm
  obtain ⟨-, hkept⟩ | ⟨rfl, hlast, rfl⟩ := hends
  · rw [hst, hrun] at hkept
    cases hkept
  · refine ⟨fun b hb => ?_, out, rfl⟩
    obtain hlt | rfl := Nat.lt_or_eq_of_le (Nat.le_of_lt_succ hb)
    · exact hbefore b hlt
    · exact hlast

/-- Settles O28: of the ways a step can end a playback, only a compare's is a mismatch, and a compare raises it only after 32 failed
attempts. -/
theorem mismatchOnlyAfter32FailedAttempts : Obligations.MismatchOnlyAfter32FailedAttempts := by
  intro s t got mask expected hs h hm
  obtain hrun | honly | ⟨rest, -, rfl⟩ | ⟨ps, rest, hf, hx, -⟩ := step_ends hs h
  · rw [hm] at hrun; cases hrun
  · obtain ⟨-, -, hne⟩ := honly.ne
    exact absurd hm (hne got mask expected)
  · cases hm
  · obtain ⟨hw, -⟩ := State.fetch_record hf
    obtain ⟨hrunning, -⟩ := hs
    obtain ⟨hnone, out, rfl⟩ := exec_shiftDataCompare_mismatch hrunning hw hx hm
    have hcompared := State.compared_eq (length_of_wellFormed_compare hw) 32 out (.done (s.attemptMismatch ps 31))
    have htrace := congrArg State.trace hcompared
    obtain ⟨hgot, -, -⟩ := Result.mismatch.inj (Status.done.inj hm)
    exact ⟨ps, rest, hf, hnone, htrace, hgot.symm, step_done hm⟩

end Sys2Proof.Machine

/-! PROOFS, family of 60_exceptions.md: which configurations are not bad. -/

namespace Sys2Proof.Machine

/-! ### The configurations that may be played back (R206) -/

theorem TapState.mem_all (t : TapState) : t ∈ TapState.all := by cases t <;> decide

theorem configFault_eq_none_iff {c : Config} : configFault c = none ↔
    opcDistinct c.opc = true ∧ seqCountsOk c.seq = true ∧ seqPathsOk c.seq = true ∧ 1 ≤ c.bufCap := by
  simp [configFault, ite_eq_iff, Nat.one_le_iff_ne_zero]

theorem opcDistinct_iff {o : OpcTable} : opcDistinct o = true ↔ (opcValues o).Nodup := decide_eq_true_iff

theorem seqCountsOk_iff {q : TapSeq} : seqCountsOk q = true ↔
    q.resetIdle.count ≤ 32 ∧ q.enterSir.count ≤ 32 ∧ q.enterSdr.count ≤ 32 ∧ q.exitIdle.count ≤ 32 := by
  simp [seqCountsOk]

/-- The last level a transition drives is its highest counted pattern bit (40_kernels.md R100, R112). -/
theorem endsLow_iff {t : Transition} : endsLow t = true ↔ ∃ n, t.count = n + 1 ∧ t.pattern.getLsbD n = false := by
  unfold endsLow transitionLevels
  cases t.count with
  | zero => simp
  | succ n => simp [List.range_succ]

/-- The conditions of R112. -/
theorem seqPathsOk_iff {q : TapSeq} : seqPathsOk q = true ↔
    (∀ t : TapState, t.after (transitionLevels q.resetIdle) = .runTestIdle) ∧
    TapState.runTestIdle.after (transitionLevels q.enterSir) = .shiftIr ∧
    TapState.runTestIdle.after (transitionLevels q.enterSdr) = .shiftDr ∧
    TapState.exit1Ir.after (transitionLevels q.exitIdle) = .runTestIdle ∧
    TapState.exit1Dr.after (transitionLevels q.exitIdle) = .runTestIdle ∧
    ∀ t ∈ [q.resetIdle, q.enterSir, q.enterSdr, q.exitIdle], ∃ n, t.count = n + 1 ∧ t.pattern.getLsbD n = false := by
  have hall : (TapState.all.all fun t => t.after (transitionLevels q.resetIdle) == .runTestIdle) = true ↔
      ∀ t : TapState, t.after (transitionLevels q.resetIdle) = .runTestIdle := by
    simp [TapState.mem_all]
  have hlow : [q.resetIdle, q.enterSir, q.enterSdr, q.exitIdle].all endsLow = true ↔
      ∀ t ∈ [q.resetIdle, q.enterSir, q.enterSdr, q.exitIdle], ∃ n, t.count = n + 1 ∧ t.pattern.getLsbD n = false := by
    simp only [List.all_eq_true, endsLow_iff]
  simp only [seqPathsOk, Bool.and_eq_true, hall, hlow, beq_iff_eq, and_assoc]

/-- Settles O9: the first step of a playback refuses a bad configuration; the check is the conditions of R73, R100, R112 and D5. -/
theorem badConfigurationIsRefusedBeforePlayback : Obligations.BadConfigurationIsRefusedBeforePlayback := by
  refine ⟨fun s f hr hp hf => ⟨step_badConfig hr hp hf, step_refused rfl⟩, fun c => ?_⟩
  rw [configFault_eq_none_iff, opcDistinct_iff, seqCountsOk_iff, seqPathsOk_iff]
  simp only [and_assoc]

end Sys2Proof.Machine

/-! PROOFS, family of 60_exceptions.md: the checks of a record in their order. -/

namespace Sys2Proof.Machine

/-! ### Short operands (20_memory.md R53) -/

theorem takeBytes_short {n : Nat} {bs : List Byte} (h : bs.length < n) : takeBytes n bs = none := if_neg (Nat.not_le.2 h)

theorem decodeVec_short (mk : List Byte → Instr) {m : Nat} {bs : List Byte} (h : bs.length < m) :
    decodeVec mk m bs = .failed .shortVector := by
  rw [decodeVec, takeBytes_short h]

theorem decodeCmp_short {m : Nat} {bs : List Byte} (h : bs.length < 2 * m) : decodeCmp m bs = .failed .shortVector := by
  rw [decodeCmp, takeBytes_short h]

theorem decodeSir_short {n : BitVec 8} {bs : List Byte} (h : bs.length < ceil8 n.toNat) :
    decodeSir (n :: bs) = .failed (.shortInstruction n) := by
  simp only [decodeSir, takeBytes_short h]

/-- A compare record of zero bits is refused under `Refuse` (41_opcodes.md R164). -/
theorem exec_shiftDataCompare_refused {s : State} (ps : List (Byte × Byte)) (hL : s.shiftLength.toNat = 0)
    (hz : s.cfg.zeroShift = .refuse) :
    exec (.shiftDataCompare ps) s = .next (s.setStatus (.refused (.zeroLengthShift s.cfg.opc.shiftDataCompare s.pc))) := by
  rw [exec, execShiftDataCompare, if_pos (State.refusesShift_iff.2 ⟨hL, hz⟩), State.refuse]

/-! ### The checks, at a record boundary (R208) -/

section Checks

variable {s : State}

/-- A record that only sets the status performs no pin operation to wait for. -/
theorem step_statusRecord {i : Instr} {rest : List Byte} {st : Status} (hs : s.Ready) (hf : s.fetch = .record i rest)
    (hx : exec i s = .next (s.setStatus st)) : step s = .next (s.setStatus st) := by
  rw [step_record hs hf, hx]
  exact awaitPins_quiet rfl

/-- Where the arm that the byte at the cursor selects reads no record, the playback ends with the outcome of that (R208). -/
theorem step_failedArm {op : Byte} {e : DecodeError} (hs : s.Ready) (hpc : s.pc < s.progLen) (hop : s.prog.read s.pc = op)
    (h : decode s.cfg.opc s.shiftLength (op :: s.programFrom (s.pc + 1)) = .failed e) :
    step s = .next (s.setStatus (.done (s.decodeOutcome e))) :=
  step_failed hs ((State.fetch_opcode s hpc hop).trans h)

theorem step_vec_short {op : Byte} {mk : List Byte → Instr} {m : Nat} (hs : s.Ready) (hpc : s.pc < s.progLen)
    (harm : ∀ bs, decode s.cfg.opc s.shiftLength (op :: bs) = decodeVec mk m bs) (hop : s.prog.read s.pc = op)
    (h : s.progLen < s.pc + 1 + m) : step s = .next (s.setStatus (.done (.truncatedProgram (s.pc + 1)))) :=
  step_failedArm hs hpc hop ((harm _).trans (decodeVec_short mk (by rw [State.length_programFrom]; omega)))

variable (hs : s.Ready) (hd : opcDistinct s.cfg.opc = true)

section Compare

variable (hop : s.prog.read s.pc = s.cfg.opc.shiftDataCompare)

include hd hop

theorem State.fetch_shiftDataCompare (h : s.pc + 1 + 2 * ceil8 s.shiftLength.toNat ≤ s.progLen) :
    s.fetch = .record (.shiftDataCompare (pairUp (s.prog.readBytes (s.pc + 1) (2 * ceil8 s.shiftLength.toNat))))
      (s.programFrom (s.pc + 1 + 2 * ceil8 s.shiftLength.toNat)) := by
  rw [State.fetch_opcode s (by omega) hop, decode_shiftDataCompare hd, decodeCmp, State.takeBytes_programFrom, if_pos (.inl h)]

include hs

theorem step_shiftDataCompare_short (hpc : s.pc < s.progLen) (h : s.progLen < s.pc + 1 + 2 * ceil8 s.shiftLength.toNat) :
    step s = .next (s.setStatus (.done (.truncatedProgram (s.pc + 1)))) :=
  step_failedArm hs hpc hop ((decode_shiftDataCompare hd _ _).trans
    (decodeCmp_short (by rw [State.length_programFrom]; omega)))

end Compare

include hs hd

/-- A zero-length data shift under `Refuse` has no operand bytes that could be short, and is refused (R164). -/
theorem step_zeroLengthDataShift (hpc : s.pc < s.progLen)
    (hop : s.prog.read s.pc = s.cfg.opc.shiftData ∨ s.prog.read s.pc = s.cfg.opc.shiftDataCompare)
    (hL : s.shiftLength = 0) (hz : s.cfg.zeroShift = .refuse) :
    step s = .next (s.setStatus (.refused (.zeroLengthShift (s.prog.read s.pc) s.pc))) := by
  have hzero : s.shiftLength.toNat = 0 := by rw [hL]; rfl
  have hbytes : ceil8 s.shiftLength.toNat = 0 := by rw [hzero]; rfl
  obtain hop | hop := hop <;> rw [hop]
  · have hf := State.fetch_vec (decode_shiftData hd s.shiftLength) hop (by rw [hbytes]; exact hpc)
    exact step_statusRecord hs hf (exec_shiftData_refused _ hzero hz)
  · have hf := State.fetch_shiftDataCompare hd hop (by rw [hbytes]; exact hpc)
    exact step_statusRecord hs hf (exec_shiftDataCompare_refused _ hzero hz)

section ShiftInstruction

variable (hop : s.prog.read s.pc = s.cfg.opc.shiftInstruction)

include hop

theorem step_shiftInstruction_noCount (hpc : s.pc < s.progLen) (h : s.progLen < s.pc + 2) :
    step s = .next (s.setStatus (.done (.truncatedProgram (s.pc + 1)))) :=
  step_failedArm (e := .shortCount) hs hpc hop (by
    rw [decode_shiftInstruction hd, State.programFrom_nil s (by omega)]
    rfl)

variable (hcount : s.pc + 2 ≤ s.progLen)

include hcount

/-- Where the bytes its count asks for are short, a shift-instruction ends the playback: the capacity is checked first. -/
theorem step_shiftInstruction_short (h : s.progLen < s.pc + 2 + ceil8 (s.prog.read (s.pc + 1)).toNat) :
    step s = .next (s.setStatus (.done (s.decodeOutcome (.shortInstruction (s.prog.read (s.pc + 1)))))) :=
  step_failedArm hs (by omega) hop (by
    rw [decode_shiftInstruction hd, State.programFrom_cons s (by omega)]
    exact decodeSir_short (by rw [State.length_programFrom]; omega))

/-- A count above a buffer is found whether or not its bytes are there (D17). -/
theorem step_shiftInstruction_capacity (h : 8 * s.cfg.bufCap < (s.prog.read (s.pc + 1)).toNat) :
    step s = .next (s.setStatus (.done (.capacity (s.prog.read (s.pc + 1)).toNat))) := by
  by_cases hdata : s.pc + 2 + ceil8 (s.prog.read (s.pc + 1)).toNat ≤ s.progLen
  · exact step_statusRecord hs (State.fetch_shiftInstruction hd hop hdata) (exec_shiftInstruction_capacity _ h)
  · rw [step_shiftInstruction_short hs hd hop hcount (Nat.not_le.1 hdata), State.decodeOutcome,
      if_pos (State.exceedsCapacity_iff.2 h)]

theorem step_shiftInstruction_refused (hn : (s.prog.read (s.pc + 1)).toNat = 0) (hz : s.cfg.zeroShift = .refuse) :
    step s = .next (s.setStatus (.refused (.zeroLengthShift (s.prog.read s.pc) s.pc))) := by
  have hf := State.fetch_shiftInstruction hd hop (by rw [hn]; exact hcount)
  rw [hop]
  exact step_statusRecord hs hf (exec_shiftInstruction_refused _ hn hz)

theorem step_shiftInstruction_truncated (hcap : (s.prog.read (s.pc + 1)).toNat ≤ 8 * s.cfg.bufCap)
    (h : s.progLen < s.pc + 2 + ceil8 (s.prog.read (s.pc + 1)).toNat) :
    step s = .next (s.setStatus (.done (.truncatedProgram (s.pc + 2)))) := by
  rw [step_shiftInstruction_short hs hd hop hcount h, State.decodeOutcome,
    if_neg (mt State.exceedsCapacity_iff.1 (Nat.not_lt.2 hcap))]

end ShiftInstruction

end Checks

/-- Settles O29: each check by what the decoder finds at the cursor, and by the record where its bytes are there. -/
theorem checksRunInTheirFixedOrder : Obligations.ChecksRunInTheirFixedOrder := by
  intro s hs hd op n c m ends
  have hrun := decode_declareRunTest hd s.shiftLength
  have hsize := decode_declareShiftSize hd s.shiftLength
  refine ⟨fun h => step_failed hs (State.fetch_end s h), fun hpc => ⟨fun hop => ?_, fun hop => ⟨?_, ?_, ?_, ?_⟩,
    fun hop h => ?_, fun hop h hcap => ?_, fun hop h => ?_, fun hop hL hz => ?_, fun hop h => ?_, fun hop h => ?_⟩⟩
  · exact step_failedArm hs hpc rfl (decode_unsupported hop s.shiftLength _)
  · exact step_shiftInstruction_noCount hs hd hop hpc
  · exact step_shiftInstruction_capacity hs hd hop
  · exact fun hcount _ hn hz => step_shiftInstruction_refused hs hd hop hcount hn hz
  · exact step_shiftInstruction_truncated hs hd hop
  · obtain hop | hop := hop
    · exact step_u32_short hs hrun hop hpc h
    · exact step_u32_short hs hsize hop hpc h
  · exact step_statusRecord hs (State.fetch_u32 hsize hop h) (exec_declareShiftSize_capacity hcap)
  · exact step_vec_short hs hpc (decode_declareTdoMask s.cfg.opc s.shiftLength) hop h
  · exact step_zeroLengthDataShift hs hd hpc hop hL hz
  · exact step_vec_short hs hpc (decode_shiftData hd s.shiftLength) hop h
  · exact step_shiftDataCompare_short hs hd hop hpc h

end Sys2Proof.Machine

/-! PROOFS, family of 70_reset_and_hazards.md: every record takes the target from Run-Test/Idle back to it. -/

namespace Sys2Proof.Machine

/-! ### Where the target's TAP stands between pulses -/

/-- Between pulses: TCK low, TMS driven to a level, the target's TAP known (10_state.md R33, R35). This is `AtRest` without the output bit on
TDO, whose number a `SEQ` that is not the default can leave unknown. -/
structure Observer.Stands (o : Observer) (tap : TapState) (tms : Bool) : Prop where
  tck_low : o.lines.tck = .driven false
  tms_driven : o.lines.tms = .driven tms
  tap_known : knownTap o.taps = some tap

namespace Observer.Stands

variable {o : Observer} {t : TapState} {b : Bool}

theorem see_tms (h : o.Stands t b) (c : Bool) : (o.see (.tms c)).Stands t c := { h with tms_driven := rfl }

theorem see_tdi (h : o.Stands t b) (c : Bool) : (o.see (.tdi c)).Stands t b := { h with }

theorem see_samples (h : o.Stands t b) (as : List Bool) : (o.seeAll (as.map .tdo)).Stands t b := by
  induction as generalizing o with
  | nil => exact h
  | cons a as ih =>
    have hsample : (o.see (.tdo a)).Stands t b := { h with }
    exact ih hsample

/-- TMS goes high before the last bit's pulse and stays low on the others (40_kernels.md R103). -/
theorem see_finalTms (h : o.Stands t false) (n k : Nat) : (o.seeAll (finalTms n k)).Stands t (decide (k + 1 = n)) := by
  unfold finalTms
  split
  · next hk =>
    rw [decide_eq_true hk]
    exact h.see_tms true
  · next hk =>
    rw [decide_eq_false hk]
    exact h

/-- A pulse moves the TAP with the TMS level driven (10_state.md R36). -/
theorem see_pulse (h : o.Stands t b) : (o.seeAll pulseEvents).Stands (t.next b) b := by
  obtain ⟨htaps, hlines⟩ := taps_pulse o b h.tck_low h.tms_driven
  exact ⟨hlines ▸ h.tck_low, hlines ▸ h.tms_driven, htaps ▸ knownTap_tapsAfterEdge h.tap_known b⟩

/-- A transition that ends with TMS low leaves it low, and the TAP where its levels lead (R112). -/
theorem see_transition (h : o.Stands t b) {q : Transition} (hlow : ∃ n, q.count = n + 1 ∧ q.pattern.getLsbD n = false) :
    (o.seeAll (transitionEvents q)).Stands (t.after (transitionLevels q)) false := by
  obtain ⟨n, hcount, hbit⟩ := hlow
  have hlines := linesAfter_fsmEvents o.lines q.pattern (n := q.count) (by omega)
  rw [← transitionEvents, ← lines_seeAll, hcount, Nat.add_sub_cancel, hbit] at hlines
  exact ⟨congrArg Lines.tck hlines, congrArg Lines.tms hlines, knownTap_transition h.tck_low h.tap_known q⟩

/-- Idle pulses keep the target in Run-Test/Idle (R102). -/
theorem see_idle (h : o.Stands .runTestIdle false) (n : Nat) : (o.seeAll (idleEvents n)).Stands .runTestIdle false := by
  induction n generalizing o with
  | zero => exact h
  | succ n ih =>
    rw [idleEvents_succ, seeAll_append]
    exact ih h.see_pulse

/-- One bit of a shift: its pulse moves the TAP with TMS high on the last bit and low on the others (R103, R105). -/
theorem see_bit (h : o.Stands t false) (n k : Nat) (bit : Nat → Bool) (samples : Nat → List Bool) :
    (o.seeAll (bitEvents n bit samples k)).Stands (t.next (decide (k + 1 = n))) (decide (k + 1 = n)) := by
  rw [bitEvents, seeAll_cons, seeAll_append, seeAll_append]
  exact (((h.see_tdi (bit k)).see_samples (samples k)).see_finalTms n k).see_pulse

/-- All bits of a shift but the last: the target stays in its Shift state. -/
theorem see_bits (h : o.Stands t false) (ht : t.isShift = true) {n m : Nat} (hm : m < n) (bit : Nat → Bool)
    (samples : Nat → List Bool) : (o.seeAll ((List.range m).flatMap (bitEvents n bit samples))).Stands t false := by
  induction m with
  | zero => exact h
  | succ m ih =>
    have hbit := (ih (by omega)).see_bit n m bit samples
    rw [decide_eq_false (by omega), TapState.next_false_of_isShift ht] at hbit
    rwa [List.range_succ, List.flatMap_append, List.flatMap_singleton, seeAll_append]

/-- A shift of at least one bit, from a Shift state: the last pulse leaves it (R103). -/
theorem see_shift (h : o.Stands t false) (ht : t.isShift = true) {n : Nat} (hn : n ≠ 0) (bit : Nat → Bool)
    (samples : Nat → List Bool) : (o.seeAll ((List.range n).flatMap (bitEvents n bit samples))).Stands (t.next true) true := by
  obtain ⟨m, rfl⟩ := Nat.exists_eq_succ_of_ne_zero hn
  have hbit := (h.see_bits ht (Nat.lt_succ_self m) bit samples).see_bit (m + 1) m bit samples
  rw [decide_eq_true rfl] at hbit
  rwa [Nat.succ_eq_add_one, List.range_succ, List.flatMap_append, List.flatMap_singleton, seeAll_append]

end Observer.Stands

/-! ### Events that bring the target back to Run-Test/Idle -/

/-- The transitions of a scan through a Shift state: into it from Run-Test/Idle and, after a shift's last pulse, back, each ending with
TMS low (40_kernels.md R112). -/
structure ScanPath (enter exit : Transition) (t : TapState) : Prop where
  isShift : t.isShift = true
  enters : TapState.runTestIdle.after (transitionLevels enter) = t
  exits : (t.next true).after (transitionLevels exit) = .runTestIdle
  enter_low : ∃ n, enter.count = n + 1 ∧ enter.pattern.getLsbD n = false
  exit_low : ∃ n, exit.count = n + 1 ∧ exit.pattern.getLsbD n = false

/-- A configuration that is not bad has a path for both scans (60_exceptions.md R206). -/
theorem scanPaths_of_configFault {c : Config} (h : configFault c = none) :
    ScanPath c.seq.enterSir c.seq.exitIdle .shiftIr ∧ ScanPath c.seq.enterSdr c.seq.exitIdle .shiftDr := by
  obtain ⟨-, -, hpaths, -⟩ := configFault_eq_none_iff.1 h
  obtain ⟨-, hsir, hsdr, hxir, hxdr, hlow⟩ := seqPathsOk_iff.1 hpaths
  exact ⟨⟨rfl, hsir, hxir, hlow _ (by simp), hlow _ (by simp)⟩, ⟨rfl, hsdr, hxdr, hlow _ (by simp), hlow _ (by simp)⟩⟩

/-- These events take a target in Run-Test/Idle with TMS low back to it (70_reset_and_hazards.md R233). -/
def KeepsIdle (es : List PinEvent) : Prop :=
  ∀ o : Observer, o.Stands .runTestIdle false → (o.seeAll es).Stands .runTestIdle false

theorem keepsIdle_nil : KeepsIdle [] := fun _ h => h

theorem KeepsIdle.append {es fs : List PinEvent} (he : KeepsIdle es) (hf : KeepsIdle fs) : KeepsIdle (es ++ fs) :=
  fun o h => by
    rw [Observer.seeAll_append]
    exact hf _ (he o h)

theorem KeepsIdle.flatMap {f : Nat → List PinEvent} (hf : ∀ i, KeepsIdle (f i)) (is : List Nat) :
    KeepsIdle (is.flatMap f) := by
  induction is with
  | nil => exact keepsIdle_nil
  | cons i is ih => exact (hf i).append ih

section Scan

variable {enter exit : Transition} {t : TapState} {n : Nat}

/-- A scan of at least one bit goes from Run-Test/Idle through its Shift state and back (40_kernels.md R115, R116). -/
theorem ScanPath.keepsIdle (hpath : ScanPath enter exit t) (hn : n ≠ 0) (bit : Nat → Bool) (samples : Nat → List Bool)
    (idle : U32) : KeepsIdle (scanEvents enter exit ((List.range n).flatMap (bitEvents n bit samples)) idle) := by
  intro o h
  have hentered := h.see_transition hpath.enter_low
  rw [hpath.enters] at hentered
  have hexited := (hentered.see_shift hpath.isShift hn bit samples).see_transition hpath.exit_low
  rw [hpath.exits] at hexited
  simp only [scanEvents, Observer.seeAll_append]
  exact hexited.see_idle idle.toNat

theorem ScanPath.keepsIdle_shift (hpath : ScanPath enter exit t) (hn : n ≠ 0) (bit : Nat → Bool) (idle : U32) :
    KeepsIdle (scanEvents enter exit (shiftEvents n bit) idle) := hpath.keepsIdle hn bit (fun _ => []) idle

theorem ScanPath.keepsIdle_sample (hpath : ScanPath enter exit t) (hn : n ≠ 0) (bit answer : Nat → Bool) (idle : U32) :
    KeepsIdle (scanEvents enter exit (sampleEvents n bit answer) idle) := hpath.keepsIdle hn bit (fun k => [answer k]) idle

end Scan

/-! ### What rests in Run-Test/Idle -/

section Rest

variable {s t : State}

/-- A record of a configuration that is not bad, with zero-length shifts refused, brings the target back to Run-Test/Idle, and its lines
are the ones its events leave. -/
theorem exec_keepsIdle {i : Instr} (hc : configFault s.cfg = none) (hz : s.cfg.zeroShift = .refuse)
    (h : exec i s = .next t) : ∃ es, KeepsIdle es ∧ t.trace = s.trace ++ es ∧ t.lines = linesAfter s.lines es := by
  have quiet (hl : t.lines = s.lines) (ht : t.trace = s.trace) :
      ∃ es, KeepsIdle es ∧ t.trace = s.trace ++ es ∧ t.lines = linesAfter s.lines es :=
    ⟨[], keepsIdle_nil, by simpa using ht, hl⟩
  obtain ⟨hir, hdr⟩ := scanPaths_of_configFault hc
  cases i with
  | complete => obtain rfl := execComplete_next h; exact quiet rfl rfl
  | declareTdoMask v => obtain ⟨-, rfl⟩ := execDeclareTdoMask_next h; exact quiet rfl rfl
  | declareRunTest c => obtain rfl := execDeclareRunTest_next h; exact quiet rfl rfl
  | declareShiftSize c => obtain ⟨-, rfl⟩ | ⟨-, rfl⟩ := execDeclareShiftSize_next h <;> exact quiet rfl rfl
  | shiftInstruction n v =>
    obtain ⟨-, rfl⟩ | ⟨-, -, rfl⟩ | ⟨-, hn, -, rfl⟩ := execShiftInstruction_next h
    · exact quiet rfl rfl
    · exact quiet rfl rfl
    · exact ⟨_, hir.keepsIdle_shift (fun h0 => hn ⟨h0, hz⟩) _ _, rfl, rfl⟩
  | shiftData v =>
    obtain ⟨-, -, rfl⟩ | ⟨hn, -, rfl⟩ := execShiftData_next h
    · exact quiet rfl rfl
    · exact ⟨_, hdr.keepsIdle_shift (fun h0 => hn ⟨h0, hz⟩) _ _, rfl, rfl⟩
  | shiftDataCompare ps =>
    by_cases hn : s.shiftLength.toNat = 0
    · obtain ⟨-, -, rfl⟩ | ⟨hn', -⟩ := execShiftDataCompare_next h
      · exact quiet rfl rfl
      · exact absurd ⟨hn, hz⟩ hn'
    · obtain ⟨h0, -⟩ | ⟨n, out, st, -, -, -, rfl, -⟩ := execShiftDataCompare_compared h
      · exact absurd h0 hn
      · exact ⟨_, .flatMap (fun _ => hdr.keepsIdle_sample hn _ _ _) _, rfl, rfl⟩

/-- After the prologue, to rest in Run-Test/Idle is to have the lines and the target that the trace shows there. -/
theorem State.restsIdle_iff (hp : s.prologueDone = true) :
    s.RestsIdle ↔ s.LinesShown ∧ (observe s.trace).Stands .runTestIdle false := by
  refine ⟨fun ⟨hshown, hlow, hidle⟩ => ?_, fun ⟨hshown, hlow, htms, htap⟩ => ?_⟩
  · obtain ⟨htap, htms⟩ := hidle hp
    exact ⟨hshown, by rw [hshown]; exact hlow, by rw [hshown]; exact htms, htap⟩
  · rw [hshown] at hlow htms
    exact ⟨hshown, hlow, fun _ => ⟨htap, htms⟩⟩

theorem State.RestsIdle.setStatus (h : s.RestsIdle) (st : Status) : (s.setStatus st).RestsIdle := h

/-- The prologue of a configuration that is not bad takes the target to Run-Test/Idle, wherever it was (R231, 40_kernels.md R112). -/
theorem State.RestsIdle.prologue (h : s.RestsIdle) (hc : configFault s.cfg = none) :
    ((s.perform (transitionEvents s.cfg.seq.resetIdle)).markPrologue).RestsIdle := by
  obtain ⟨hshown, hlow, -⟩ := h
  obtain ⟨-, -, hpaths, -⟩ := configFault_eq_none_iff.1 hc
  obtain ⟨hreset, -, -, -, -, hends⟩ := seqPathsOk_iff.1 hpaths
  obtain ⟨n, hcount, hbit⟩ := hends s.cfg.seq.resetIdle (by simp)
  have hlines := linesAfter_fsmEvents s.lines s.cfg.seq.resetIdle.pattern (n := s.cfg.seq.resetIdle.count) (by omega)
  rw [hcount, Nat.add_sub_cancel, hbit, ← hcount] at hlines
  exact ⟨hshown.perform _, congrArg Lines.tck hlines, fun _ => ⟨State.tap_reset hshown hlow hreset, congrArg Lines.tms hlines⟩⟩

/-- A record keeps the target in Run-Test/Idle at record boundaries (R233). -/
theorem State.RestsIdle.exec {i : Instr} (h : s.RestsIdle) (hp : s.prologueDone = true) (hc : configFault s.cfg = none)
    (hz : s.cfg.zeroShift = .refuse) (hx : exec i s = .next t) : t.RestsIdle := by
  obtain ⟨hshown, hstands⟩ := (State.restsIdle_iff hp).1 h
  obtain ⟨es, hes, htrace, hlines⟩ := exec_keepsIdle hc hz hx
  obtain ⟨-, -, -, hdone, -⟩ := accessSummaryOfEveryOpcode i s t hx
  refine (State.restsIdle_iff (hdone.trans hp)).2 ⟨?_, ?_⟩
  · rw [State.LinesShown, htrace, hlines]
    exact hshown.perform es
  · rw [htrace, observe_append]
    exact hes _ hstands

end Rest

/-- Settles O37: the prologue takes the target to Run-Test/Idle from anywhere, and each scan of a record takes it back there. -/
theorem stepsRestInRunTestIdle : Obligations.StepsRestInRunTestIdle := by
  refine ⟨fun cfg program answers => ⟨rfl, rfl, nofun⟩, fun s t hc hz hrest h => ?_⟩
  obtain ⟨-, rfl⟩ | ⟨-, -, rfl⟩ | ⟨⟨-, hp⟩, i, rest, -, hx⟩ | ⟨-, e, -, rfl⟩ := step_next h
  · exact hrest
  · obtain ⟨f, -, hs⟩ | ⟨-, hs⟩ := State.start_cases s <;> rw [hs]
    · exact hrest.setStatus _
    · exact hrest.prologue hc
  · exact hrest.exec hp hc hz hx
  · exact hrest.setStatus _

end Sys2Proof.Machine

/-! PROOFS, family of 70_reset_and_hazards.md: the start of a playback, its default prologue, its end, and a block stuck in a pin
operation. -/

namespace Sys2Proof.Machine

/-! ### The start of a playback (R230 to R232) -/

/-- Settles O6: the host's start sets the configuration, the program and the answers only, over the values of R230. -/
theorem playbackStartsFromTheResetValues : Obligations.PlaybackStartsFromTheResetValues := by
  intro cfg program answers s
  have hread : ∀ a, a < program.length → s.prog.read a = program.getD a 0 := fun a ha =>
    (Memory.read_writeBytes [] 0 program a).trans (by simp [ha])
  exact ⟨rfl, rfl, rfl, fun a => ⟨rfl, rfl, rfl, rfl⟩, rfl, rfl, rfl, rfl, rfl, rfl, rfl, hread,
    State.programFrom_playback cfg program answers⟩

/-- Settles O34: the reset state is the start of a playback of no program. -/
theorem playbackStartHasTheInvariant : Obligations.PlaybackStartHasTheInvariant :=
  ⟨State.playback_inv defaultConfig [] [], State.playback_inv⟩

theorem transitionEvents_defaultResetIdle : transitionEvents defaultSeq.resetIdle =
    (List.replicate 5 [PinEvent.tms true, .tck true, .tck false]).flatten ++ [.tms false, .tck true, .tck false] := by
  decide

/-- Settles O8: the first step is the prologue, whose five pulses with TMS high reach Test-Logic-Reset from anywhere. -/
theorem defaultPrologueTrace : Obligations.DefaultPrologueTrace := by
  intro cfg program answers hseq hc
  have htrace : (State.begun cfg program answers).trace = transitionEvents defaultSeq.resetIdle := by rw [← hseq]; rfl
  have hreset (u : TapState) : u.after (transitionLevels cfg.seq.resetIdle) = .runTestIdle := by
    rw [hseq]
    exact after_defaultResetIdle u
  refine ⟨_, step_playback program answers hc, htrace.trans transitionEvents_defaultResetIdle, ?_,
    State.tap_reset rfl rfl hreset, rfl, rfl⟩
  show linesAfter _ (transitionEvents cfg.seq.resetIdle) = _
  rw [hseq, transitionEvents_defaultResetIdle]
  rfl

/-! ### The end of a playback (R238) -/

/-- Settles O33: a done playback steps to itself, and a refused one does not step. -/
theorem statusChangesOncePerPlayback : Obligations.StatusChangesOncePerPlayback := by
  intro k s t h hended
  cases hst : s.status with
  | running => exact absurd hst hended
  | done r =>
    rw [run_done hst] at h
    cases h
    rfl
  | refused r =>
    cases k with
    | zero => cases h; rfl
    | succ k =>
      obtain ⟨u, hu, -⟩ := run_succ_next h
      rw [step_refused hst] at hu
      cases hu

/-! ### A pin operation that never returns (R235, U13) -/

section Stuck

variable {s t : State} {es : List PinEvent}

theorem State.withRoom_fault {m : Nat} {f : Fault} (h : s.withRoom m (.next t) = .fault f) : f = .bufferOutOfRange m := by
  unfold State.withRoom at h
  split at h <;> cases h
  rfl

/-- A record faults only where its operand does not fit a buffer (20_memory.md R54; log 13). -/
theorem exec_fault {i : Instr} {f : Fault} (h : exec i s = .fault f) : ∃ m, f = .bufferOutOfRange m := by
  cases i with
  | complete => cases h
  | declareTdoMask v => exact ⟨_, State.withRoom_fault h⟩
  | declareRunTest c => cases h
  | declareShiftSize c =>
    rw [exec, execDeclareShiftSize] at h
    split at h <;> cases h
  | shiftInstruction n v =>
    rw [exec, execShiftInstruction] at h
    split at h
    · cases h
    split at h
    · cases h
    · exact ⟨_, State.withRoom_fault h⟩
  | shiftData v =>
    rw [exec, execShiftData] at h
    split at h
    · cases h
    · exact ⟨_, State.withRoom_fault h⟩
  | shiftDataCompare ps =>
    rw [exec, execShiftDataCompare] at h
    split at h
    · cases h
    · exact ⟨_, State.withRoom_fault h⟩

theorem State.trace_prefix_start (s : State) : s.trace <+: s.start.trace := by
  obtain ⟨f, -, hs⟩ | ⟨-, hs⟩ := State.start_cases s <;> rw [hs]
  · exact List.prefix_rfl
  · exact List.prefix_append _ _

theorem State.start_eq_prologue (hc : configFault s.cfg = none) :
    s.start = (s.perform (transitionEvents s.cfg.seq.resetIdle)).markPrologue := by
  obtain ⟨f, hf, -⟩ | ⟨-, hs⟩ := State.start_cases s
  · rw [hc] at hf; cases hf
  · exact hs

/-- A step is stuck only in a pin operation that a running playback performs, after those before it. -/
theorem step_stuck (h : step s = .fault (.pinNeverReturns es)) :
    s.status = .running ∧ ∃ t, s.trace <+: t.trace ∧ s.hungIn t = some es := by
  cases hr : s.status with
  | done r => rw [step_done hr] at h; cases h
  | refused r => rw [step_refused hr] at h; cases h
  | running =>
    refine ⟨rfl, ?_⟩
    cases hp : s.prologueDone with
    | false =>
      rw [step_start hr hp] at h
      exact ⟨s.start, s.trace_prefix_start, awaitPins_eq_fault h⟩
    | true =>
      cases hf : s.fetch with
      | failed e => rw [step_failed ⟨hr, hp⟩ hf] at h; cases h
      | record i rest =>
        rw [step_record ⟨hr, hp⟩ hf] at h
        cases hx : exec i s with
        | next t =>
          rw [hx] at h
          obtain ⟨fs, -, htrace, -⟩ := exec_pins hx
          exact ⟨t, ⟨fs, htrace.symm⟩, awaitPins_eq_fault h⟩
        | fault f =>
          obtain ⟨m, rfl⟩ := exec_fault hx
          rw [hx] at h
          cases h
        | refused r => rw [hx] at h; cases h

/-- The pins show the operations before the one that never returns: those of the trace so far, and `hangsAt` in all. -/
theorem State.hungIn_shown (hpre : s.trace <+: t.trace) (h : s.hungIn t = some es) :
    s.hangsAt = some es.length ∧ s.trace <+: es := by
  obtain ⟨n, hn, hle, hlt, rfl⟩ := hungIn_eq_some.1 h
  exact ⟨by rw [hn, List.length_take_of_le hlt.le], List.prefix_take_iff.2 ⟨hpre, hle⟩⟩

end Stuck

/-- A longer run does not get past a fault. -/
theorem coreRun_add_of_fault (M : Host.Core) {k : Nat} {a : M.State} {f : M.Fault} (h : M.run k a = .fault f) (j : Nat) :
    M.run (k + j) a = .fault f := by
  induction k generalizing a with
  | zero => cases h
  | succ k ih =>
    rw [Host.Core.run] at h
    cases hs : M.step a with
    | next b =>
      rw [hs] at h
      rw [Nat.add_right_comm, coreRun_of_step M hs]
      exact ih h
    | fault g =>
      rw [hs] at h
      cases h
      rw [Nat.add_right_comm, coreRun_fault_of_step M hs]
    | refused r => rw [hs] at h; cases h

/-- Settles O45: waiting finds the operation that never returns among those a record or the prologue performs, and no run goes on after
a fault. -/
theorem pinOperationThatNeverReturnsLeavesTheBlockStuck :
    Obligations.PinOperationThatNeverReturnsLeavesTheBlockStuck := by
  refine ⟨fun s t i rest n hs hf hn hx => ?_, fun s n hr hp hn hc => ?_, fun s es h => ?_,
    fun k j s es h => coreRun_add_of_fault core h j⟩
  · rw [step_record hs hf, hx]
    exact ⟨awaitPins_hung hn, awaitPins_before hn⟩
  · have htrace : s.start.trace = s.trace ++ transitionEvents s.cfg.seq.resetIdle := by rw [State.start_eq_prologue hc]; rfl
    rw [step_start hr hp, ← List.length_append, ← htrace]
    refine ⟨fun hle hlt => ?_, awaitPins_before hn⟩
    rw [awaitPins_hung hn hle hlt, htrace, List.take_append, List.take_of_length_le hle]
  · obtain ⟨hr, t, hpre, hhung⟩ := step_stuck h
    exact ⟨hr, State.hungIn_shown hpre hhung⟩

end Sys2Proof.Machine

/-! PROOFS, family of 30_encoding.md, the words of R72 and R73: each is the encoding of the record it is read as. -/

namespace Sys2Proof.Machine

theorem opcDistinct_defaultOpc : opcDistinct defaultOpc = true := by decide

theorem decode_defaultOpc_of_encode {L : U32} {i : Instr} {rest bs : List Byte} (hw : i.WellFormed L = true)
    (hbs : encode defaultOpc i ++ rest = bs) : decode defaultOpc L bs = .record i rest :=
  hbs ▸ encodedRecordDecodesToItself defaultOpc L i rest opcDistinct_defaultOpc hw

/-- Settles O1: each of the seven words is what the encoder writes for its well-formed record at the default table, and 0x07 is
no value of that table. -/
theorem wordsOfTheEncodingTablesDecode : Obligations.WordsOfTheEncodingTablesDecode := by
  have unlisted : 0x07 ∉ opcValues defaultOpc := by decide
  refine ⟨?complete, ?mask, ?instruction, ?data, ?runTest, ?size, ?compare, decode_unsupported unlisted 0 _⟩
  all_goals exact decode_defaultOpc_of_encode rfl rfl

end Sys2Proof.Machine
